-- ==== Sys2Proof/Word.lean ====
section
/-!
DEFINITION. The two unsigned value widths of GSFC (00_scope.md R8, R14): `u8` and `u32`.
-/
namespace Sys2Proof

/-- `u8`: an 8-bit unsigned value. -/
abbrev Byte := BitVec 8

/-- `u32`: a 32-bit unsigned value. -/
abbrev Word := BitVec 32

end Sys2Proof
end

