-- ==== Sys2Proof/Syntax.lean ====
section
/-!
DEFINITION. The instructions: one constructor per row of the opcode map (30_encoding.md R56, opcode_table.json).
A request's instruction is its CMD byte alone, which holds no immediate (R62): the operands are on the request ports.
-/
namespace Sys2Proof

/-- The operations of R56 and the three reserved rows of the opcode map (R59). -/
inductive Instr where
  /-- ENC, CMD 0x01: encode a CanFrame into 24 bytes (R68). -/
  | enc
  /-- DEC, CMD 0x02: decode a byte buffer into a CanFrame (R72). -/
  | dec
  /-- CLASS, CMD 0x03: classify a `can_id` (R78). -/
  | cls
  /-- TIMING, CMD 0x04: look up the BitTiming of a bitrate (R82). -/
  | timing
  /-- TPAY, CMD 0x05: serialize a BitTiming into 20 bytes (R87). -/
  | tpay
  /-- ERRDEC, CMD 0x06: decode an error frame into an ErrorReport (R91). -/
  | errdec
  /-- (reserved), CMD 0x00 (R59). -/
  | reservedZero
  /-- (reserved), CMD 0x07 to 0x0F: field `zero` is 0 and `op` is 7 to 15 (R59). -/
  | reservedOp (op : BitVec 4)
  /-- (reserved), CMD 0x10 to 0xFF: field `zero` is not 0 (R59). -/
  | reservedHigh (zero op : BitVec 4)
deriving DecidableEq, Repr

/-- Whether the instruction is one of the reserved rows, which `decode_cmd` calls Illegal (R58). -/
def Instr.isReserved : Instr → Bool
  | .reservedZero | .reservedOp _ | .reservedHigh _ _ => true
  | .enc | .dec | .cls | .timing | .tpay | .errdec => false

end Sys2Proof
end

