-- ==== Sys2Proof/WellFormed.lean ====
section
/-!
DEFINITION. Which instructions have an encoding: the field ranges of the reserved rows (30_encoding.md R56, R59).
-/
namespace Sys2Proof

/-- The field values a constructor's row admits: `op` is 7 to 15 in the second reserved row, and `zero` is not 0 in the
third. -/
def Instr.wellFormed : Instr → Bool
  | .enc | .dec | .cls | .timing | .tpay | .errdec | .reservedZero => true
  | .reservedOp op => decide (7 ≤ op.toNat)
  | .reservedHigh zero _ => decide (zero ≠ 0#4)

end Sys2Proof
end

