-- ==== Sys2Proof/Decode.lean ====
section
/-!
DEFINITION. The command decoder (30_encoding.md R55, R56, R58), total on all 256 CMD values, and the encoder.
-/
namespace Sys2Proof

/-- Field `zero` of CMD, bits 7:4 (R55). -/
def zeroField (cmd : Byte) : BitVec 4 := cmd.extractLsb' 4 4

/-- Field `op` of CMD, bits 3:0 (R55). -/
def opField (cmd : Byte) : BitVec 4 := cmd.extractLsb' 0 4

/-- `decode_cmd` (R58). Where R58 answers Illegal, the reserved row that holds the CMD value is the answer. -/
def decodeCmd (cmd : Byte) : Instr :=
  if zeroField cmd ≠ 0#4 then .reservedHigh (zeroField cmd) (opField cmd)
  else
    match (opField cmd).toNat with
    | 0 => .reservedZero
    | 1 => .enc
    | 2 => .dec
    | 3 => .cls
    | 4 => .timing
    | 5 => .tpay
    | 6 => .errdec
    | _ => .reservedOp (opField cmd)

/-- The CMD byte of an instruction, from the opcode map (R56). -/
def encode : Instr → Byte
  | .reservedZero => 0x00#8
  | .enc => 0x01#8
  | .dec => 0x02#8
  | .cls => 0x03#8
  | .timing => 0x04#8
  | .tpay => 0x05#8
  | .errdec => 0x06#8
  | .reservedOp op => 0#4 ++ op
  | .reservedHigh zero op => zero ++ op

/-- The CMD byte whose low `nbits` bits are those of `w` and whose other bits are 0. -/
def cmdByte (nbits w : Nat) : Byte := BitVec.ofNat 8 (w % 2 ^ nbits)

/-- The instruction read from `nbits` bits `w`. Every request is one command byte (R54), so more than 8 bits are no
instruction. -/
def decodeTableWord (nbits w : Nat) : Option Instr :=
  if nbits ≤ 8 then some (decodeCmd (cmdByte nbits w)) else none

end Sys2Proof
end

