-- ==== Sys2Proof/Config.lean ====
section
/-!
DEFINITION. The parameters of GSFC (00_scope.md R10, R12) and the record types they are made of. The default table and
the check of a configured one are in Machine/TimingTable.lean.
-/
namespace Sys2Proof

/-- A BitTiming (10_state.md R26): five `u32` fields in the order of the control payload. -/
structure BitTiming where
  propSeg : Word
  phaseSeg1 : Word
  phaseSeg2 : Word
  sjw : Word
  brp : Word
deriving DecidableEq, Repr

/-- One row of TIMING_TABLE (41_bit_timing.md R83): the bitrate key and the row's five values. -/
structure TimingRow where
  bitrate : Word
  timing : BitTiming
deriving DecidableEq, Repr

/-- The configuration of one GSFC: the OPEN parameters of 92_eei_decisions.md. TIMING_TABLE is R10 and R30.
`maxBufLen` is MAX_BUF_LEN of R12, where `none` is "unbounded". -/
structure Config where
  timingTable : List TimingRow
  maxBufLen : Option Nat
deriving DecidableEq, Repr

end Sys2Proof
end

