-- ==== Sys2Proof/Machine/TimingTable.lean ====
section
/-!
DEFINITION. TIMING_TABLE: its default rows (41_bit_timing.md R83), the protocol-level ranges (10_state.md R27) and the
check of a configured table (R86, 92_eei_decisions.md D15).
-/
namespace Sys2Proof

/-- A row with the constants `prop_seg` = 1 and `sjw` = 1 (R83). -/
def TimingRow.ofSegments (bitrate phaseSeg1 phaseSeg2 brp : Word) : TimingRow :=
  { bitrate, timing := { propSeg := 1, phaseSeg1, phaseSeg2, sjw := 1, brp } }

/-- The ten rows of R83, as the spec gives them (90_conflicts.md C1: the 1 000 000 row stands as written). -/
def Config.defaultTimingTable : List TimingRow :=
  [ .ofSegments 10000 12 2 300,
    .ofSegments 20000 12 2 150,
    .ofSegments 50000 12 2 60,
    .ofSegments 83333 12 2 36,
    .ofSegments 100000 12 2 30,
    .ofSegments 125000 12 2 24,
    .ofSegments 250000 12 2 12,
    .ofSegments 500000 12 2 6,
    .ofSegments 800000 11 2 4,
    .ofSegments 1000000 11 2 3 ]

/-- The default of both OPEN parameters: the ten source rows, and an unbounded buffer (R10, R12). -/
def Config.default : Config :=
  { timingTable := Config.defaultTimingTable, maxBufLen := none }

/-- The protocol-level legal ranges of a BitTiming (R27). No range is given for `prop_seg`. -/
def BitTiming.inRange (t : BitTiming) : Bool :=
  decide (1 ≤ t.phaseSeg1.toNat ∧ t.phaseSeg1.toNat ≤ 15) &&
  decide (1 ≤ t.phaseSeg2.toNat ∧ t.phaseSeg2.toNat ≤ 8) &&
  decide (1 ≤ t.sjw.toNat ∧ t.sjw.toNat ≤ 4) &&
  decide (1 ≤ t.brp.toNat ∧ t.brp.toNat ≤ 1024)

/-- What a configured row keeps (D15): `prop_seg` = `sjw` = 1 and the ranges of R27. -/
def TimingRow.valid (w : TimingRow) : Bool :=
  decide (w.timing.propSeg = 1) && decide (w.timing.sjw = 1) && w.timing.inRange

/-- What a configured table keeps (D15): every row valid, and no two rows with one key. -/
def Config.tableValid (c : Config) : Bool :=
  c.timingTable.all TimingRow.valid && decide ((c.timingTable.map TimingRow.bitrate).Nodup)

/-- Whether a buffer of `n` bytes is longer than MAX_BUF_LEN (R12). -/
def Config.bufTooLong (c : Config) (n : Nat) : Bool :=
  match c.maxBufLen with
  | none => false
  | some m => decide (m < n)

end Sys2Proof
end

