-- ==== Sys2Proof/Machine/State.lean ====
section
/-!
DEFINITION. The state of GSFC (10_state.md R34): the request in flight, the response pending, the configuration and the
fault mark, with the host agent's script beside them. Plain data.
-/
namespace Sys2Proof.Machine

/-- A CanFrame (10_state.md R23): exactly these eight fields, in wire order. No derived value is stored (R24).
The default values are those of the notation of 30_encoding.md R67: an omitted field of a literal is 0. -/
structure CanFrame where
  echoId : Word := 0
  canId : Word := 0
  dlc : Byte := 0
  channel : Byte := 0
  flags : Byte := 0
  reserved : Byte := 0
  data : Vector Byte 8 := #v[0, 0, 0, 0, 0, 0, 0, 0]
  timestampUs : Word := 0
deriving DecidableEq, Repr

/-- The record of `class_out` (10_state.md R22). -/
structure ClassOut where
  ext : Bool
  rtr : Bool
  err : Bool
  arbId : Word
deriving DecidableEq, Repr

/-- An ErrorReport (10_state.md R28). The bits of `errorFlags` are named by `ErrorFlag`. -/
structure ErrorReport where
  errorFlags : BitVec 10
  txErrorCount : Byte
  rxErrorCount : Byte
deriving DecidableEq, Repr

/-- The four values of the STATUS byte (30_encoding.md R60). -/
inductive Status where
  | ok
  | badLength
  | unsupportedBitrate
  | illegalOp
deriving DecidableEq, Repr

/-- The operand ports of a request (10_state.md R21). -/
inductive Port where
  | frameIn
  | bufIn
  | wordIn
  | timingIn
deriving DecidableEq, Repr

/-- The result ports of a response (10_state.md R22). -/
inductive ResultPort where
  | bytesOut
  | frameOut
  | classOut
  | timingOut
  | reportOut
deriving DecidableEq, Repr

/-- A request on the ports (10_state.md R21): the command byte, and each operand port with the value it carries or
none. -/
structure Request where
  cmd : Byte
  frameIn : Option CanFrame := none
  bufIn : Option (List Byte) := none
  wordIn : Option Word := none
  timingIn : Option BitTiming := none
deriving DecidableEq, Repr

/-- A response (10_state.md R22): one case per opcode with its own result port, so that a port without a value cannot be
read, and one case per error status, which carries the status alone (60_exceptions.md R100). -/
inductive Response where
  | enc (bytesOut : List Byte)
  | dec (frameOut : CanFrame)
  | cls (classOut : ClassOut)
  | timing (timingOut : BitTiming)
  | tpay (bytesOut : List Byte)
  | errdec (reportOut : ErrorReport)
  | badLength
  | unsupportedBitrate
  | illegalOp
  /-- The response to a request that met the fault NotErrorFrame: the spec leaves its status and its ports open
  (60_exceptions.md R103, 93_implementation_defined.md U2), so it has neither. -/
  | unspecified
deriving DecidableEq, Repr

/-- What the host agent does next (60_exceptions.md R98, 70_reset_and_hazards.md R119). DESIGN CHOICE (log 2, log 9). -/
inductive HostEvent where
  /-- The host reads the response pending, if any, and puts a request on the ports. -/
  | issue (r : Request)
  /-- The host reads the response pending, if any. -/
  | read
  /-- Reset arrives. -/
  | reset
deriving DecidableEq, Repr

/-- Why a request faults. -/
inductive Fault where
  /-- Raised by ERRDEC on a frame whose `can_id[29]` is 0 (42_error_decode.md R92, 60_exceptions.md R99): the spec leaves
  the response unspecified and has a model fault. Safe: no value can be read from it. `step` turns it into the mark of
  R103. -/
  | notErrorFrame
deriving DecidableEq, Repr

/-- Why a request is refused. -/
inductive Refusal where
  /-- An instruction without a meaning yet, by its mnemonic. Raised by no arm of this model. Safe. -/
  | notModelled (mnemonic : String)
  /-- Raised by ENC, DEC, CLASS, TIMING, TPAY and ERRDEC when the port their opcode names carries no value: no request of
  10_state.md R21 and 30_encoding.md R57 is so. Safe (log 4). -/
  | noOperand (port : Port)
  /-- Raised by DEC when a configured MAX_BUF_LEN is exceeded (00_scope.md R12: such a request is refused). Safe. -/
  | bufferTooLong
  /-- Raised by TIMING when the configured TIMING_TABLE breaks its bounds (41_bit_timing.md R86, D15: a model refuses
  it). Safe (log 6). -/
  | badTimingTable
deriving DecidableEq, Repr

/-- The state (10_state.md R34), and the host agent. -/
structure State where
  /-- The transaction in flight: the request on the ports (R21). -/
  request : Option Request
  /-- The response pending (R22). -/
  response : Option Response
  /-- TIMING_TABLE and MAX_BUF_LEN (R30, R12): read only. -/
  config : Config
  /-- The mark NotErrorFrame (60_exceptions.md R103), never cleared. -/
  notErrorFrame : Bool
  /-- The host's own: its events still to come (R19). -/
  script : List HostEvent
  /-- The host's own: the responses it has read, oldest first (R49). -/
  received : List Response
deriving DecidableEq, Repr

/-- Right after reset (R34, 70_reset_and_hazards.md R118): no transaction in flight, no response pending, the table at its
constant value. DESIGN CHOICE (log 2, log 5): the mark is not set and the host has nothing to do. -/
def State.reset : State :=
  { request := none
    response := none
    config := Config.default
    notErrorFrame := false
    script := []
    received := [] }

end Sys2Proof.Machine
end

