-- ==== Sys2Proof/Machine/Ops.lean ====
section
/-!
DEFINITION. The shared operations: the memory primitives over a byte sequence (00_scope.md R15), the ways a transaction
ends (R16, 60_exceptions.md R99), reset, and the host agent's turn.

GSFC takes no exception and returns from none (60_exceptions.md R107, R108): its error responses are ordinary responses,
and what stands in the place of exception entry is `State.recordFault`.
-/
namespace Sys2Proof.Machine

/-- Byte `k` of `v`: `v[8k+7:8k]` (00_scope.md R14, R15). -/
def byteOf {w : Nat} (v : BitVec w) (k : Nat) : Byte := v.extractLsb' (8 * k) 8

/-- `MemWrite(B, off, n, v)` (R15): byte `k` of `B` at offset `off + k` becomes `v[8k+7:8k]`, for `k` below `n`. -/
def memWrite {w : Nat} (B : List Byte) (off : Nat) : (n : Nat) → (v : BitVec w) → List Byte
  | 0, _ => B
  | n + 1, v => (memWrite B off n v).set (off + n) (byteOf v n)

/-- The sum of `B[off + k] * 2^(8k)` over `k` below `n` (R15). An offset past the end counts 0 and is reached by no
operation (log 7). -/
def memReadNat (B : List Byte) (off : Nat) : (n : Nat) → Nat
  | 0 => 0
  | n + 1 => memReadNat B off n + (B.getD (off + n) 0).toNat * 2 ^ (8 * n)

/-- `MemRead(B, off, n)` (R15): the little-endian unsigned value of width `8n`. -/
def memRead (B : List Byte) (off n : Nat) : BitVec (8 * n) := BitVec.ofNat (8 * n) (memReadNat B off n)

/-- `MemRead(B, off, 4)`, a `u32` field (30_encoding.md R63). -/
def memReadWord (B : List Byte) (off : Nat) : Word := memRead B off 4

/-- A fresh byte sequence of length `n`. ENC and TPAY write every byte of theirs (log 7). -/
def blankBytes (n : Nat) : List Byte := List.replicate n 0

/-- The state once the transaction in flight has ended with the response `x`. -/
def State.answer (s : State) (x : Response) : State := { s with request := none, response := some x }

/-- `respond` and `raise` (R16): complete the transaction with a response. Nothing else changes (60_exceptions.md
R104). -/
def State.respond (s : State) (x : Response) : Host.Outcome State Fault Refusal := .next (s.answer x)

/-- The fault NotErrorFrame recorded (60_exceptions.md R103): the mark is set, the transaction has ended, and what the
block put in its response is left open. -/
def State.recordFault (s : State) : State := { s.answer .unspecified with notErrorFrame := true }

/-- How a transaction settles: a fault is recorded as the mark and the run goes on (R103, log 5). -/
def settle (s : State) : Host.Outcome State Fault Refusal → Host.Outcome State Fault Refusal
  | .next t => .next t
  | .fault .notErrorFrame => .next s.recordFault
  | .refused r => .refused r

/-- Reset of the block (10_state.md R34, 70_reset_and_hazards.md R119): the transaction in flight is abandoned, no
response is pending, and the configuration keeps its value. The mark (R103) and the host's own data stay (log 9). -/
def State.applyReset (s : State) : State := { s with request := none, response := none }

/-- The host reads the response pending, if any. -/
def State.collect (s : State) : State :=
  { s with response := none, received := s.received ++ s.response.toList }

/-- The host agent's turn, when no transaction is in flight: its next event, or else reading the response
(20_memory.md R49: a request is started only after the response before it is complete). -/
def State.hostTurn (s : State) : State :=
  match s.script with
  | [] => s.collect
  | .issue r :: rest => { s.collect with request := some r, script := rest }
  | .read :: rest => { s.collect with script := rest }
  | .reset :: rest => { s.applyReset with script := rest }

/-- Whether the host agent's next event is a reset. -/
def State.resetArrives (s : State) : Bool :=
  match s.script with
  | .reset :: _ => true
  | [] | .issue _ :: _ | .read :: _ => false

end Sys2Proof.Machine
end

