-- ==== Sys2Proof/Machine/Operands.lean ====
section
/-!
DEFINITION. The operand and result ports of each opcode (30_encoding.md R57) and the reading of an operand port
(00_scope.md R16, `in.<port>`).
-/
namespace Sys2Proof.Machine

/-- The operand port an opcode names (R57). A reserved row reads none. -/
def operandPort : Instr → Option Port
  | .enc | .errdec => some .frameIn
  | .dec => some .bufIn
  | .cls | .timing => some .wordIn
  | .tpay => some .timingIn
  | .reservedZero | .reservedOp _ | .reservedHigh _ _ => none

/-- The result port an opcode writes when its status is OK (R57). -/
def resultPort : Instr → Option ResultPort
  | .enc | .tpay => some .bytesOut
  | .dec => some .frameOut
  | .cls => some .classOut
  | .timing => some .timingOut
  | .errdec => some .reportOut
  | .reservedZero | .reservedOp _ | .reservedHigh _ _ => none

/-- The statuses an opcode can return (R57, 60_exceptions.md R100). -/
def statusesOf : Instr → List Status
  | .enc | .cls | .tpay | .errdec => [.ok]
  | .dec => [.ok, .badLength]
  | .timing => [.ok, .unsupportedBitrate]
  | .reservedZero | .reservedOp _ | .reservedHigh _ _ => [.illegalOp]

/-- Whether a port of the request carries a value. -/
def Request.carries (r : Request) : Port → Bool
  | .frameIn => r.frameIn.isSome
  | .bufIn => r.bufIn.isSome
  | .wordIn => r.wordIn.isSome
  | .timingIn => r.timingIn.isSome

/-- A request of 10_state.md R21: exactly the ports named for its opcode carry a value. -/
def Request.wellFormed (r : Request) : Bool :=
  [Port.frameIn, .bufIn, .wordIn, .timingIn].all
    (fun p => r.carries p == decide (operandPort (decodeCmd r.cmd) = some p))

/-- The value on `frame_in`. -/
def State.frameIn (s : State) : Option CanFrame := s.request.bind Request.frameIn

/-- The value on `buf_in`. -/
def State.bufIn (s : State) : Option (List Byte) := s.request.bind Request.bufIn

/-- The value on `word_in`. -/
def State.wordIn (s : State) : Option Word := s.request.bind Request.wordIn

/-- The value on `timing_in`. -/
def State.timingIn (s : State) : Option BitTiming := s.request.bind Request.timingIn

/-- Read an operand port: go on with its value, or refuse where it carries none (10_state.md R21, log 4). -/
def readPort {α : Type} (port : Port) (value : Option α) (k : α → Host.Outcome State Fault Refusal) :
    Host.Outcome State Fault Refusal :=
  match value with
  | some v => k v
  | none => .refused (.noOperand port)

/-- The STATUS byte of a status (30_encoding.md R60). -/
def Status.code : Status → Byte
  | .ok => 0x00
  | .badLength => 0x01
  | .unsupportedBitrate => 0x02
  | .illegalOp => 0x03

/-- The status of a response; none where the spec leaves it open (60_exceptions.md R103). -/
def Response.status : Response → Option Status
  | .enc _ | .dec _ | .cls _ | .timing _ | .tpay _ | .errdec _ => some .ok
  | .badLength => some .badLength
  | .unsupportedBitrate => some .unsupportedBitrate
  | .illegalOp => some .illegalOp
  | .unspecified => none

/-- The result port that carries a value, if one does (10_state.md R22). -/
def Response.port : Response → Option ResultPort
  | .enc _ | .tpay _ => some .bytesOut
  | .dec _ => some .frameOut
  | .cls _ => some .classOut
  | .timing _ => some .timingOut
  | .errdec _ => some .reportOut
  | .badLength | .unsupportedBitrate | .illegalOp | .unspecified => none

/-- The request with a CMD byte put in it, and with an operand on the port that opcode names where there is none. The
operands are ones on which each operation completes with OK (log 3). -/
def Request.withCmd (r : Request) (cmd : Byte) : Request :=
  match operandPort (decodeCmd cmd) with
  | some .frameIn => { r with cmd, frameIn := some (r.frameIn.getD { canId := 0x20000000 }) }
  | some .bufIn => { r with cmd, bufIn := some (r.bufIn.getD (blankBytes 24)) }
  | some .wordIn => { r with cmd, wordIn := some (r.wordIn.getD 500000) }
  | some .timingIn =>
      { r with cmd, timingIn := some (r.timingIn.getD
          { propSeg := 1, phaseSeg1 := 12, phaseSeg2 := 2, sjw := 1, brp := 6 }) }
  | none => { r with cmd }

/-- The state with a CMD byte on the ports, so that the next step performs it: the response pending has been read
(20_memory.md R49) and no reset arrives first (log 3). -/
def State.placeCmd (s : State) (cmd : Byte) : State :=
  { s.collect with
    request := some ((s.request.getD { cmd }).withCmd cmd)
    script := s.script.dropWhile (fun e => e == .reset) }

end Sys2Proof.Machine
end

