-- ==== Sys2Proof/Machine/BitTiming.lean ====
section
/-!
DEFINITION. The bit-timing family (41_bit_timing.md): TIMING and TPAY.
-/
namespace Sys2Proof.Machine

/-- The timing TIMING answers with for a bitrate, from the row whose key equals it (R82, R84). -/
def lookupTiming (table : List TimingRow) (bitrate : Word) : Option BitTiming :=
  match table.find? (fun w => w.bitrate == bitrate) with
  | some w =>
      some { propSeg := 1
             phaseSeg1 := w.timing.phaseSeg1
             phaseSeg2 := w.timing.phaseSeg2
             sjw := 1
             brp := w.timing.brp }
  | none => none

/-- TPAY's writes into the byte sequence `P` (R87, layout 20_memory.md R38). -/
def timingPayloadInto (P : List Byte) (t : BitTiming) : List Byte :=
  let P := memWrite P 0 4 t.propSeg
  let P := memWrite P 4 4 t.phaseSeg1
  let P := memWrite P 8 4 t.phaseSeg2
  let P := memWrite P 12 4 t.sjw
  memWrite P 16 4 t.brp

/-- The 20-byte bit-timing payload (R87), little-endian (20_memory.md R40, log 11). -/
def timingPayload (t : BitTiming) : List Byte := timingPayloadInto (blankBytes 20) t

/-- TIMING (R82): UNSUPPORTED_BITRATE where no key equals the bitrate (R84, R85). A configured table outside its bounds is
refused (R86, D15). -/
def execTiming (s : State) : Host.Outcome State Fault Refusal :=
  readPort .wordIn s.wordIn (fun bitrate =>
    if !s.config.tableValid then .refused .badTimingTable
    else
      match lookupTiming s.config.timingTable bitrate with
      | some t => s.respond (.timing t)
      | none => s.respond .unsupportedBitrate)

/-- TPAY (R87): no range is checked (R88). -/
def execTpay (s : State) : Host.Outcome State Fault Refusal :=
  readPort .timingIn s.timingIn (fun t => s.respond (.tpay (timingPayload t)))

end Sys2Proof.Machine
end

