-- ==== Sys2Proof/Machine/Flags.lean ====
section
/-!
DEFINITION. The bits of the `can_id` word (30_encoding.md R64, 10_state.md R29) and of `error_flags` (10_state.md R28),
and the computation of `error_flags` (42_error_decode.md R91). GSFC itself has no flags register (R31).
-/
namespace Sys2Proof.Machine

/-- `CAN_EFF_FLAG` (R29). -/
def canEffFlag : Word := 0x80000000

/-- `CAN_RTR_FLAG` (R29). -/
def canRtrFlag : Word := 0x40000000

/-- `CAN_ERR_FLAG` (R29). -/
def canErrFlag : Word := 0x20000000

/-- `CAN_SFF_MASK` (R29), which no operation applies (40_frame_codec.md R80). -/
def canSffMask : Word := 0x7FF

/-- `CAN_EFF_MASK` (R29). -/
def canEffMask : Word := 0x1FFFFFFF

/-- `ECHO_ID_TX` (R25), to which GSFC gives no meaning. -/
def echoIdTx : Word := 0x00000000

/-- `ECHO_ID_NONE` (R25), to which GSFC gives no meaning. -/
def echoIdNone : Word := 0xFFFFFFFF

/-- `(v & mask) != 0`, the bit test of 42_error_decode.md R127. -/
def bitsSet {w : Nat} (v mask : BitVec w) : Bool := v &&& mask != 0

/-- `is_extended_id` (40_frame_codec.md R79). -/
def CanFrame.isExtendedId (f : CanFrame) : Bool := f.canId.getLsbD 31

/-- `is_remote_frame` (R79). -/
def CanFrame.isRemoteFrame (f : CanFrame) : Bool := f.canId.getLsbD 30

/-- `is_error_frame` (R79). -/
def CanFrame.isErrorFrame (f : CanFrame) : Bool := f.canId.getLsbD 29

/-- `arbitration_id` (R79): `zext_32(can_id[28:0])`. -/
def CanFrame.arbitrationId (f : CanFrame) : Word := (f.canId.extractLsb' 0 29).setWidth 32

/-- The ten flags of an ErrorReport (R28). -/
inductive ErrorFlag where
  | busOff
  | rxTxWarning
  | rxTxPassive
  | overload
  | stuff
  | form
  | ack
  | bitRecessive
  | bitDominant
  | crc
deriving DecidableEq, Repr

/-- The bit of `error_flags` that R28 assigns to a flag. -/
def ErrorFlag.bit : ErrorFlag → Nat
  | .busOff => 0
  | .rxTxWarning => 1
  | .rxTxPassive => 2
  | .overload => 3
  | .stuff => 4
  | .form => 5
  | .ack => 6
  | .bitRecessive => 7
  | .bitDominant => 8
  | .crc => 9

/-- Whether a report has a flag set. -/
def ErrorReport.has (r : ErrorReport) (n : ErrorFlag) : Bool := r.errorFlags.getLsbD n.bit

/-- `if c: e.NAME <- 1` (42_error_decode.md R91). -/
def setFlagIf (c : Bool) (n : ErrorFlag) (e : BitVec 10) : BitVec 10 :=
  if c then e ||| BitVec.twoPow 10 n.bit else e

/-- The flag of the else-if of R91 and R94: WARNING wins over PASSIVE. -/
def setWarningOrPassive (b : Byte) (e : BitVec 10) : BitVec 10 :=
  if bitsSet b 0x04 then setFlagIf true .rxTxWarning e else setFlagIf (bitsSet b 0x10) .rxTxPassive e

/-- `error_flags` of an error frame (R91, R93). -/
def errorFlagsOf (f : CanFrame) : BitVec 10 :=
  let e := 0
  let e := setFlagIf (bitsSet f.canId 0x40) .busOff e
  let e := setWarningOrPassive f.data[1] e
  let e := setFlagIf (bitsSet f.flags 0x01) .overload e
  let e := setFlagIf (bitsSet f.data[2] 0x04) .stuff e
  let e := setFlagIf (bitsSet f.data[2] 0x02) .form e
  let e := setFlagIf (bitsSet f.canId 0x20) .ack e
  let e := setFlagIf (bitsSet f.data[2] 0x10) .bitRecessive e
  let e := setFlagIf (bitsSet f.data[2] 0x08) .bitDominant e
  setFlagIf (bitsSet f.data[3] 0x08) .crc e

end Sys2Proof.Machine
end

