-- ==== Sys2Proof/Machine/ErrorDecode.lean ====
section
/-!
DEFINITION. The error-frame family (42_error_decode.md): ERRDEC.
-/
namespace Sys2Proof.Machine

/-- The report of an error frame (R91): the flags of R93 and the two counters of R95. `dlc` is not read (R97). -/
def errorReportOf (f : CanFrame) : ErrorReport :=
  { errorFlags := errorFlagsOf f
    txErrorCount := f.data[6]
    rxErrorCount := f.data[7] }

/-- ERRDEC (R91). On a frame with `can_id[29]` = 0 it is the fault NotErrorFrame and no value (R92). -/
def execErrdec (s : State) : Host.Outcome State Fault Refusal :=
  readPort .frameIn s.frameIn (fun f =>
    if f.isErrorFrame then s.respond (.errdec (errorReportOf f)) else .fault .notErrorFrame)

end Sys2Proof.Machine
end

