-- ==== Sys2Proof/Machine/FrameCodec.lean ====
section
/-!
DEFINITION. The frame codec family (40_frame_codec.md): ENC, DEC and CLASS.
-/
namespace Sys2Proof.Machine

/-- ENC's writes into the byte sequence `B` (R68, layout 20_memory.md R36). -/
def encodeFrameInto (B : List Byte) (f : CanFrame) : List Byte :=
  let B := memWrite B 0 4 f.echoId
  let B := memWrite B 4 4 f.canId
  let B := B.set 8 f.dlc
  let B := B.set 9 f.channel
  let B := B.set 10 f.flags
  let B := B.set 11 f.reserved
  let B := B.set 12 f.data[0]
  let B := B.set 13 f.data[1]
  let B := B.set 14 f.data[2]
  let B := B.set 15 f.data[3]
  let B := B.set 16 f.data[4]
  let B := B.set 17 f.data[5]
  let B := B.set 18 f.data[6]
  let B := B.set 19 f.data[7]
  memWrite B 20 4 f.timestampUs

/-- The 24-byte wire image of a frame (R68, R71). -/
def encodeFrame (f : CanFrame) : List Byte := encodeFrameInto (blankBytes 24) f

/-- The frame of a 24-byte wire image (R72). -/
def decodeFrame (B : List Byte) : CanFrame :=
  { echoId := memReadWord B 0
    canId := memReadWord B 4
    dlc := B.getD 8 0
    channel := B.getD 9 0
    flags := B.getD 10 0
    reserved := B.getD 11 0
    data := #v[B.getD 12 0, B.getD 13 0, B.getD 14 0, B.getD 15 0,
               B.getD 16 0, B.getD 17 0, B.getD 18 0, B.getD 19 0]
    timestampUs := memReadWord B 20 }

/-- The record CLASS computes (R78). -/
def classify (id : Word) : ClassOut :=
  { ext := bitsSet id canEffFlag
    rtr := bitsSet id canRtrFlag
    err := bitsSet id canErrFlag
    arbId := id &&& canEffMask }

/-- The timestamp of a frame in seconds (R81): the exact rational, which no operation produces. It is here for claims. -/
def CanFrame.timestampSeconds (f : CanFrame) : Rat := (f.timestampUs.toNat : Rat) / 1000000

/-- ENC (R68): never an error (R70). -/
def execEnc (s : State) : Host.Outcome State Fault Refusal :=
  readPort .frameIn s.frameIn (fun f => s.respond (.enc (encodeFrame f)))

/-- DEC (R72): BAD_LENGTH unless the length is 24 (R73), and no other check (R74). A buffer above a configured MAX_BUF_LEN
is refused (00_scope.md R12). -/
def execDec (s : State) : Host.Outcome State Fault Refusal :=
  readPort .bufIn s.bufIn (fun B =>
    if s.config.bufTooLong B.length then .refused .bufferTooLong
    else if B.length ≠ 24 then s.respond .badLength
    else s.respond (.dec (decodeFrame B)))

/-- CLASS (R78). -/
def execCls (s : State) : Host.Outcome State Fault Refusal :=
  readPort .wordIn s.wordIn (fun id => s.respond (.cls (classify id)))

end Sys2Proof.Machine
end

