-- ==== Sys2Proof/Machine/Reserved.lean ====
section
/-!
DEFINITION. The reserved rows of the opcode map (30_encoding.md R59): ILLEGAL_OP, no operand port read and no result port
written (60_exceptions.md R101).
-/
namespace Sys2Proof.Machine

/-- CMD 0x00 (R59, R101). -/
def execReservedZero (s : State) : Host.Outcome State Fault Refusal := s.respond .illegalOp

/-- CMD 0x07 to 0x0F (R59, R101): the same for every `op`. -/
def execReservedOp (_op : BitVec 4) (s : State) : Host.Outcome State Fault Refusal := s.respond .illegalOp

/-- CMD 0x10 to 0xFF (R59, R101): the same for every `zero` and `op`. -/
def execReservedHigh (_zero _op : BitVec 4) (s : State) : Host.Outcome State Fault Refusal := s.respond .illegalOp

end Sys2Proof.Machine
end

