-- ==== Sys2Proof/Machine/Dispatch.lean ====
section
/-! DEFINITION. The dispatch: one arm per instruction of the opcode map (30_encoding.md R56). -/
namespace Sys2Proof.Machine

def exec (i : Instr) (s : State) : Host.Outcome State Fault Refusal :=
  match i with
  | .enc => Sys2Proof.Machine.execEnc s
  | .dec => Sys2Proof.Machine.execDec s
  | .cls => Sys2Proof.Machine.execCls s
  | .timing => Sys2Proof.Machine.execTiming s
  | .tpay => Sys2Proof.Machine.execTpay s
  | .errdec => Sys2Proof.Machine.execErrdec s
  | .reservedZero => Sys2Proof.Machine.execReservedZero s
  | .reservedOp op => Sys2Proof.Machine.execReservedOp op s
  | .reservedHigh zero op => Sys2Proof.Machine.execReservedHigh zero op s

end Sys2Proof.Machine
end

