-- ==== Sys2Proof/Machine/Step.lean ====
section
/-!
DEFINITION. One step. Two agents act (60_exceptions.md R98), and the state says which moves: GSFC where a request is in
flight, the host agent where none is. A transaction is one step (20_memory.md R45).
-/
namespace Sys2Proof.Machine

/-- One step: a reset that arrives while a request is in flight abandons it (70_reset_and_hazards.md R119), else GSFC
performs the request (R98, R105: CMD is decoded first), and with no request in flight it is the host agent's turn. -/
def step (s : State) : Host.Outcome State Fault Refusal :=
  match s.request with
  | none => .next s.hostTurn
  | some r => if s.resetArrives then .next s.hostTurn else settle s (exec (decodeCmd r.cmd) s)

/-- The state with the CMD byte of `nbits` bits `w` on the request ports, so that the next step performs it (log 3). -/
def State.withFetchWord (s : State) (nbits w : Nat) : State := s.placeCmd (cmdByte nbits w)

end Sys2Proof.Machine
end

