-- ==== Sys2Proof/Machine/Asm.lean ====
section
/-!
DEFINITION. The request notation of 30_encoding.md R67 as data: one case per form, and the request each form writes. An
omitted field of a `frame` literal is 0, which is CanFrame's default value.
-/
namespace Sys2Proof.Machine

/-- The written requests of R67. -/
inductive Asm where
  | enc (frame : CanFrame)
  | dec (bytes : List Byte)
  | cls (word : Word)
  | timing (word : Word)
  | tpay (timing : BitTiming)
  | errdec (frame : CanFrame)
  /-- ILL: an illegal CMD byte written explicitly. -/
  | ill (cmd : Byte)
deriving DecidableEq, Repr

/-- ILL writes illegal CMD bytes only (R67, R59). -/
def asmWellFormed : Asm → Bool
  | .ill cmd => (decodeCmd cmd).isReserved
  | .enc _ | .dec _ | .cls _ | .timing _ | .tpay _ | .errdec _ => true

/-- The instruction a written request names. -/
def asmInstr : Asm → Instr
  | .enc _ => .enc
  | .dec _ => .dec
  | .cls _ => .cls
  | .timing _ => .timing
  | .tpay _ => .tpay
  | .errdec _ => .errdec
  | .ill cmd => decodeCmd cmd

/-- The request on the ports: the CMD byte of R56 and the operand port of R57. -/
def assemble : Asm → Request
  | .enc frame => { cmd := 0x01, frameIn := some frame }
  | .dec bytes => { cmd := 0x02, bufIn := some bytes }
  | .cls word => { cmd := 0x03, wordIn := some word }
  | .timing word => { cmd := 0x04, wordIn := some word }
  | .tpay timing => { cmd := 0x05, timingIn := some timing }
  | .errdec frame => { cmd := 0x06, frameIn := some frame }
  | .ill cmd => { cmd }

end Sys2Proof.Machine
end

