-- ==== Sys2Proof/Machine/BitRate.lean ====
section
/-!
DEFINITION. The informative bit-rate facts of 41_bit_timing.md R89. PRESUMED (log 15): the relation is the spec's passage
from general knowledge (93_implementation_defined.md G1). No operation reads anything of this file.
-/
namespace Sys2Proof.Machine

/-- CLOCK_HZ, the device's CAN base clock (00_scope.md R11). -/
def clockHz : Nat := 48000000

/-- Time quanta per bit (R89). -/
def tqPerBit (t : BitTiming) : Nat := 1 + t.propSeg.toNat + t.phaseSeg1.toNat + t.phaseSeg2.toNat

/-- The bit rate at CLOCK_HZ (R89), an exact rational. -/
def bitRate (t : BitTiming) : Rat := (clockHz : Rat) / ((t.brp.toNat * tqPerBit t : Nat) : Rat)

/-- The sample point (R89), an exact rational. -/
def samplePoint (t : BitTiming) : Rat :=
  ((1 + t.propSeg.toNat + t.phaseSeg1.toNat : Nat) : Rat) / ((tqPerBit t : Nat) : Rat)

end Sys2Proof.Machine
end

