-- ==== Sys2Proof/Safety.lean ====
section
/-!
DEFINITION. What counts as a good state, the invariant of the machine, and the vocabulary of the claims.
-/
namespace Sys2Proof.Machine

/-- A good state (60_exceptions.md R103): one that does not carry the mark NotErrorFrame. -/
def good (s : State) : Bool := !s.notErrorFrame

/-- What a response holds by the rules of its opcode: the lengths of 10_state.md R22, the ranges of R27 with
`prop_seg` = `sjw` = 1 (41_bit_timing.md R86), a 29-bit arbitration id (40_frame_codec.md R80), and never both WARNING and
PASSIVE (42_error_decode.md R94). -/
def legalResponse : Response → Bool
  | .enc bytes => decide (bytes.length = 24)
  | .tpay bytes => decide (bytes.length = 20)
  | .timing t => decide (t.propSeg = 1) && decide (t.sjw = 1) && t.inRange
  | .cls c => decide (c.arbId.toNat < 2 ^ 29)
  | .errdec r => !(r.has .rxTxWarning && r.has .rxTxPassive)
  | .dec _ | .badLength | .unsupportedBitrate | .illegalOp | .unspecified => true

/-- The responses of the run so far that nothing has dropped: those the host has read, and the one pending. -/
def responsesOf (s : State) : List Response := s.received ++ s.response.toList

/-- The machine's invariant. -/
structure Inv (s : State) : Prop where
  /-- Transactions are performed one at a time (20_memory.md R49): no request is in flight while a response is pending. -/
  oneAtATime : s.request = none ∨ s.response = none
  /-- The configured table keeps its bounds (92_eei_decisions.md D15). -/
  tableValid : s.config.tableValid = true
  /-- Every response is one its opcode can give. -/
  legal : ∀ x ∈ responsesOf s, legalResponse x = true
  /-- A response left open is always marked (60_exceptions.md R103). -/
  marked : Response.unspecified ∈ responsesOf s → s.notErrorFrame = true

/-- The response an outcome carries, for claims that compare two runs. -/
def replyOf : Host.Outcome State Fault Refusal → Host.Outcome (Option Response) Fault Refusal
  | .next t => .next t.response
  | .fault r => .fault r
  | .refused r => .refused r

/-- The same value on one operand port of two states. -/
def samePort (s t : State) : Port → Prop
  | .frameIn => s.frameIn = t.frameIn
  | .bufIn => s.bufIn = t.bufIn
  | .wordIn => s.wordIn = t.wordIn
  | .timingIn => s.timingIn = t.timingIn

/-- When an instruction completes with a response: the port its opcode names carries a value (10_state.md R21), and the
precondition of the operation holds: a buffer not above a configured MAX_BUF_LEN (R12), a valid table (D15), an error frame
(42_error_decode.md R92). -/
def completes (i : Instr) (s : State) : Prop :=
  match i with
  | .enc => s.frameIn.isSome = true
  | .dec => ∃ B, s.bufIn = some B ∧ s.config.bufTooLong B.length = false
  | .cls => s.wordIn.isSome = true
  | .timing => s.wordIn.isSome = true ∧ s.config.tableValid = true
  | .tpay => s.timingIn.isSome = true
  | .errdec => ∃ f, s.frameIn = some f ∧ f.isErrorFrame = true
  | .reservedZero | .reservedOp _ | .reservedHigh _ _ => True

/-- The response of a fresh block with configuration `c` to the request `r` alone, where the transaction ends in one. -/
def replyTo (c : Config) (r : Request) : Option Response :=
  match step { State.reset with config := c, request := some r } with
  | .next t => t.response
  | .fault _ | .refused _ => none

/-- Between transactions: no request in flight and no response pending. -/
def idle (s : State) : Prop := s.request = none ∧ s.response = none

/-- The report bits and frame bits ERRDEC reads (42_error_decode.md R96) are the same in two frames. -/
def agreeOnErrdecInputs (f g : CanFrame) : Prop :=
  f.canId.getLsbD 29 = g.canId.getLsbD 29 ∧ f.canId.getLsbD 6 = g.canId.getLsbD 6 ∧
  f.canId.getLsbD 5 = g.canId.getLsbD 5 ∧
  f.data[1].getLsbD 2 = g.data[1].getLsbD 2 ∧ f.data[1].getLsbD 4 = g.data[1].getLsbD 4 ∧
  f.data[2].getLsbD 1 = g.data[2].getLsbD 1 ∧ f.data[2].getLsbD 2 = g.data[2].getLsbD 2 ∧
  f.data[2].getLsbD 3 = g.data[2].getLsbD 3 ∧ f.data[2].getLsbD 4 = g.data[2].getLsbD 4 ∧
  f.data[3].getLsbD 3 = g.data[3].getLsbD 3 ∧
  f.data[6] = g.data[6] ∧ f.data[7] = g.data[7] ∧ f.flags.getLsbD 0 = g.flags.getLsbD 0

/-- A frame buffer holds a frame by the address map of 20_memory.md R36: each `u32` field little-endian at its offset
(R39), each single byte at its own, the data bytes at 12 to 19 in index order (R37), and no other offset. -/
def holdsFrame (FB : List Byte) (f : CanFrame) : Prop :=
  FB.length = 24 ∧
  (∀ k, k < 4 → FB[0 + k]? = some (f.echoId.extractLsb' (8 * k) 8)) ∧
  (∀ k, k < 4 → FB[4 + k]? = some (f.canId.extractLsb' (8 * k) 8)) ∧
  FB[8]? = some f.dlc ∧ FB[9]? = some f.channel ∧ FB[10]? = some f.flags ∧ FB[11]? = some f.reserved ∧
  (∀ i, (h : i < 8) → FB[12 + i]? = some (f.data[i]'h)) ∧
  (∀ k, k < 4 → FB[20 + k]? = some (f.timestampUs.extractLsb' (8 * k) 8))

end Sys2Proof.Machine
end

