-- ==== Sys2Proof/Certificates/Slice0/Obligations.lean ====
section
/-!
DEFINITION. The statements for the provers. Each docstring names the rule of spec/ it comes from. A rule the spec marks as
its own decision or inference is named in the docstring, and the statement is then of basis derived.
-/

open Sys2Proof Sys2Proof.Machine

/-! ### Encoding (30_encoding.md) -/

/-- Decoding the CMD byte of a well-formed instruction gives it back, directly and as a word of the opcode table
(R55, R56, R58; the opcode values are decisions D3 and D4). -/
def Obligations.DecodeOfEncodeIsTheInstruction : Prop :=
  ∀ i : Instr, i.wellFormed = true →
    decodeCmd (encode i) = i ∧ decodeTableWord 8 (encode i).toNat = some i

/-- Every CMD byte decodes to a well-formed instruction whose encoding is that byte (R58: the decoder is total). -/
def Obligations.EncodeOfDecodeIsTheByte : Prop :=
  ∀ cmd : Byte, (decodeCmd cmd).wellFormed = true ∧ encode (decodeCmd cmd) = cmd

/-- The six CMD bytes of R56, bit by bit, and one byte of each reserved row (R59). -/
def Obligations.TableBytesDecode : Prop :=
  decodeCmd 0b00000001#8 = .enc ∧ decodeCmd 0b00000010#8 = .dec ∧ decodeCmd 0b00000011#8 = .cls ∧
  decodeCmd 0b00000100#8 = .timing ∧ decodeCmd 0b00000101#8 = .tpay ∧ decodeCmd 0b00000110#8 = .errdec ∧
  decodeCmd 0b00000000#8 = .reservedZero ∧ decodeCmd 0b00000111#8 = .reservedOp 0b0111#4 ∧
  decodeCmd 0b00010001#8 = .reservedHigh 0b0001#4 0b0001#4

/-- Exactly six of the 256 CMD values select an operation, and each of the other 250 answers ILLEGAL_OP in every state
(R58; that an illegal CMD answers so is decision D5, log 12). -/
def Obligations.SixCommandsAreLegal : Prop :=
  (∀ cmd : Byte, (decodeCmd cmd).isReserved = false ↔ (1 ≤ cmd.toNat ∧ cmd.toNat ≤ 6)) ∧
  ((List.range 256).countP (fun n => (decodeCmd (BitVec.ofNat 8 n)).isReserved) = 250) ∧
  (∀ (cmd : Byte) (s : State), (decodeCmd cmd).isReserved = true →
    exec (decodeCmd cmd) s = .next { s with request := none, response := some .illegalOp })

/-! ### The step (60_exceptions.md R98, R105; 20_memory.md R49) -/

/-- With a request in flight and no reset arriving, the step is `exec` of the decoded instruction; a fault is recorded as
the mark of R103 and the run goes on (log 5). -/
def Obligations.StepRunsTheDecodedInstruction : Prop :=
  ∀ (s : State) (r : Request), s.request = some r → s.resetArrives = false →
    (decodeCmd r.cmd).wellFormed = true ∧
    (∀ t, exec (decodeCmd r.cmd) s = .next t → step s = .next t) ∧
    (∀ e, exec (decodeCmd r.cmd) s = .refused e → step s = .refused e) ∧
    (exec (decodeCmd r.cmd) s = .fault .notErrorFrame →
      step s = .next { s with request := none, response := some .unspecified, notErrorFrame := true })

/-- A word placed for the next step is the instruction that step performs, and from reset every word completes with a
response and without the mark (the model's own convention, log 3). -/
def Obligations.PlacedWordIsPerformedNext : Prop :=
  (∀ (s : State) (w : Nat) (i : Instr), decodeTableWord 8 w = some i →
    ∃ r, (s.withFetchWord 8 w).request = some r ∧ decodeCmd r.cmd = i ∧
      step (s.withFetchWord 8 w) = settle (s.withFetchWord 8 w) (exec i (s.withFetchWord 8 w))) ∧
  (∀ w : Nat, ∃ t x, step (State.reset.withFetchWord 8 w) = .next t ∧ t.response = some x ∧
    x ≠ .unspecified ∧ t.notErrorFrame = false)

/-- With no request in flight the host agent moves: it reads the response pending and issues the next request of its
script, or only reads, or reset arrives; with nothing to do and nothing to read the state stands still (the model's own
host agent, log 2). -/
def Obligations.HostMovesBetweenTransactions : Prop :=
  ∀ s : State, s.request = none →
    (s.script = [] → step s = .next { s with response := none, received := s.received ++ s.response.toList }) ∧
    (∀ r rest, s.script = .issue r :: rest → step s = .next
      { s with request := some r, response := none, received := s.received ++ s.response.toList, script := rest }) ∧
    (∀ rest, s.script = .read :: rest → step s = .next
      { s with response := none, received := s.received ++ s.response.toList, script := rest }) ∧
    (∀ rest, s.script = .reset :: rest → step s = .next { s with response := none, script := rest }) ∧
    (s.script = [] → s.response = none → step s = .next s)

/-! ### ENC (40_frame_codec.md section 1) -/

/-- ENC completes with the 24 bytes of its pseudocode, whatever the frame holds, and changes nothing else (R68). -/
def Obligations.EncWritesTheWireImage : Prop :=
  decodeCmd 0x01 = .enc ∧
  ∀ (s : State) (f : CanFrame), s.frameIn = some f →
    exec .enc s = .next { s with request := none, response := some (.enc
      [f.echoId.extractLsb' 0 8, f.echoId.extractLsb' 8 8, f.echoId.extractLsb' 16 8, f.echoId.extractLsb' 24 8,
       f.canId.extractLsb' 0 8, f.canId.extractLsb' 8 8, f.canId.extractLsb' 16 8, f.canId.extractLsb' 24 8,
       f.dlc, f.channel, f.flags, f.reserved,
       f.data[0], f.data[1], f.data[2], f.data[3], f.data[4], f.data[5], f.data[6], f.data[7],
       f.timestampUs.extractLsb' 0 8, f.timestampUs.extractLsb' 8 8, f.timestampUs.extractLsb' 16 8,
       f.timestampUs.extractLsb' 24 8]) }

/-- ENC never fails: it has no fault in any state, every response of it is OK, and it answers every frame (R70). -/
def Obligations.EncNeverFails : Prop :=
  ∀ s : State,
    (∀ e, exec .enc s ≠ .fault e) ∧
    (∀ t, exec .enc s = .next t → ∃ x, t.response = some x ∧ x.status = some .ok) ∧
    (∀ f, s.frameIn = some f → ∃ t, exec .enc s = .next t)

/-- ENC leaves no offset of its 24-byte sequence unwritten: the result does not depend on what the fresh sequence held
(R71, which the spec derives). -/
def Obligations.EncWritesEveryOffset : Prop :=
  ∀ (B C : List Byte) (f : CanFrame), B.length = 24 → C.length = 24 →
    (encodeFrameInto B f).length = 24 ∧ encodeFrameInto B f = encodeFrameInto C f

/-- The frame buffer's address map, in both directions: the bytes ENC answers with hold the frame it was given, and a
24-byte buffer holds the frame DEC answers with. Each `u32` field is little-endian at its offset (R36, R39), each single byte
at its own, and the data bytes are at 12 to 19 in index order (R37). -/
def Obligations.FrameBufferHasItsAddressMap : Prop :=
  (∀ (s : State) (f : CanFrame), s.frameIn = some f →
    ∃ FB, exec .enc s = .next { s with request := none, response := some (.enc FB) } ∧ holdsFrame FB f) ∧
  (∀ (s : State) (FB : List Byte), s.bufIn = some FB → s.config.bufTooLong 24 = false → FB.length = 24 →
    ∃ f, exec .dec s = .next { s with request := none, response := some (.dec f) } ∧ holdsFrame FB f)

/-! ### DEC (40_frame_codec.md section 2) -/

/-- DEC completes: BAD_LENGTH when the length is not 24, else the frame whose every field is the little-endian value of its
bytes; nothing else changes (R72). A configured MAX_BUF_LEN is not exceeded (R12; unbounded by default). -/
def Obligations.DecReadsTheWireImage : Prop :=
  decodeCmd 0x02 = .dec ∧
  ∀ (s : State) (B : List Byte), s.bufIn = some B → s.config.bufTooLong B.length = false →
    (B.length ≠ 24 → exec .dec s = .next { s with request := none, response := some .badLength }) ∧
    (B.length = 24 → ∃ f, exec .dec s = .next { s with request := none, response := some (.dec f) } ∧
      (∀ v off, (v, off) ∈ [(f.echoId, 0), (f.canId, 4), (f.timestampUs, 20)] →
        v.toNat = (B.getD off 0).toNat + (B.getD (off + 1) 0).toNat * 2 ^ 8 +
          (B.getD (off + 2) 0).toNat * 2 ^ 16 + (B.getD (off + 3) 0).toNat * 2 ^ 24) ∧
      B[8]? = some f.dlc ∧ B[9]? = some f.channel ∧ B[10]? = some f.flags ∧ B[11]? = some f.reserved ∧
      (∀ i, (h : i < 8) → B[12 + i]? = some (f.data[i]'h)))

/-- DEC answers BAD_LENGTH if and only if the length is not 24, for every length; it never faults and always answers, and
the BAD_LENGTH response has no result port (R73). -/
def Obligations.DecBadLengthExactlyWhenNot24 : Prop :=
  ∀ (s : State) (B : List Byte), s.bufIn = some B → s.config.bufTooLong B.length = false →
    (exec .dec s = .next { s with request := none, response := some .badLength } ↔ B.length ≠ 24) ∧
    (∃ t, exec .dec s = .next t) ∧ (∀ e, exec .dec s ≠ .fault e) ∧ Response.badLength.port = none

/-- A 24-byte buffer always decodes with status OK, whatever its bytes are (R74). -/
def Obligations.DecChecksOnlyTheLength : Prop :=
  ∀ (s : State) (B : List Byte), s.bufIn = some B → s.config.bufTooLong 24 = false → B.length = 24 →
    ∃ f, exec .dec s = .next { s with request := none, response := some (.dec f) } ∧
      (Response.dec f).status = some .ok

/-- MAX_BUF_LEN is unbounded at reset, and a DEC request above a bound is refused (R12, decision D8). -/
def Obligations.DecRefusesAboveMaxBufLen : Prop :=
  State.reset.config.maxBufLen = none ∧
  ∀ (s : State) (B : List Byte) (m : Nat), s.bufIn = some B → s.config.maxBufLen = some m → m < B.length →
    exec .dec s = .refused .bufferTooLong

/-- ENC and DEC are inverse at the machine: DEC of the bytes ENC answers with gives the frame, for every frame, and ENC of
the frame DEC answers with gives the bytes, for every 24-byte buffer (R77, which the spec derives). -/
def Obligations.EncAndDecAreInverse : Prop :=
  (∀ (s : State) (f : CanFrame), s.frameIn = some f →
    ∃ B, B.length = 24 ∧ exec .enc s = .next { s with request := none, response := some (.enc B) } ∧
      ∀ u : State, u.bufIn = some B → u.config.bufTooLong 24 = false →
        exec .dec u = .next { u with request := none, response := some (.dec f) }) ∧
  (∀ (u : State) (B : List Byte), B.length = 24 → u.bufIn = some B → u.config.bufTooLong 24 = false →
    ∃ f, exec .dec u = .next { u with request := none, response := some (.dec f) } ∧
      ∀ s : State, s.frameIn = some f →
        exec .enc s = .next { s with request := none, response := some (.enc B) })

/-! ### CLASS (40_frame_codec.md section 4) -/

/-- CLASS completes with the three masked tests and the masked id, whatever the flags say, and changes nothing else
(R78, R80). -/
def Obligations.ClassComputesFlagsAndId : Prop :=
  decodeCmd 0x03 = .cls ∧
  ∀ (s : State) (id : Word), s.wordIn = some id →
    exec .cls s = .next { s with request := none, response := some (.cls
      { ext := decide (id &&& 0x80000000 ≠ 0), rtr := decide (id &&& 0x40000000 ≠ 0),
        err := decide (id &&& 0x20000000 ≠ 0), arbId := id &&& 0x1FFFFFFF }) }

/-- The four results of CLASS are bits 31, 30, 29 and 28:0 of the word, and the word is put together again from them
(the CANID format of R64). -/
def Obligations.ClassSplitsTheWord : Prop :=
  ∀ (s : State) (id : Word), s.wordIn = some id →
    ∃ c, exec .cls s = .next { s with request := none, response := some (.cls c) } ∧
      c.ext = id.getLsbD 31 ∧ c.rtr = id.getLsbD 30 ∧ c.err = id.getLsbD 29 ∧
      c.arbId.toNat = id.toNat % 2 ^ 29 ∧
      id.toNat = c.ext.toNat * 2 ^ 31 + c.rtr.toNat * 2 ^ 30 + c.err.toNat * 2 ^ 29 + c.arbId.toNat

/-- The derived predicates of a frame are the results of CLASS on its `can_id` (R79, which the spec derives). -/
def Obligations.FramePredicatesAreClass : Prop :=
  ∀ (s : State) (f : CanFrame), s.wordIn = some f.canId →
    exec .cls s = .next { s with request := none, response := some (.cls
      { ext := f.isExtendedId, rtr := f.isRemoteFrame, err := f.isErrorFrame, arbId := f.arbitrationId }) }

/-! ### TIMING (41_bit_timing.md section 1) -/

/-- TIMING completes: with the row whose key is the bitrate, `prop_seg` = `sjw` = 1, or with UNSUPPORTED_BITRATE where there
is none; nothing else changes (R82). The table is one R86 allows. -/
def Obligations.TimingAnswersWithTheRow : Prop :=
  decodeCmd 0x04 = .timing ∧
  ∀ (s : State) (bitrate : Word), s.wordIn = some bitrate → s.config.tableValid = true →
    (∀ w ∈ s.config.timingTable, w.bitrate = bitrate →
      exec .timing s = .next { s with request := none, response := some (.timing
        { propSeg := 1, phaseSeg1 := w.timing.phaseSeg1, phaseSeg2 := w.timing.phaseSeg2, sjw := 1,
          brp := w.timing.brp }) }) ∧
    ((∀ w ∈ s.config.timingTable, w.bitrate ≠ bitrate) →
      exec .timing s = .next { s with request := none, response := some .unsupportedBitrate })

/-- The default table holds exactly the ten rows, no two with one key, and TIMING answers each key with its row (R83). -/
def Obligations.DefaultTableHasTheTenRows : Prop :=
  State.reset.config.timingTable =
    [⟨10000, ⟨1, 12, 2, 1, 300⟩⟩, ⟨20000, ⟨1, 12, 2, 1, 150⟩⟩, ⟨50000, ⟨1, 12, 2, 1, 60⟩⟩,
     ⟨83333, ⟨1, 12, 2, 1, 36⟩⟩, ⟨100000, ⟨1, 12, 2, 1, 30⟩⟩, ⟨125000, ⟨1, 12, 2, 1, 24⟩⟩,
     ⟨250000, ⟨1, 12, 2, 1, 12⟩⟩, ⟨500000, ⟨1, 12, 2, 1, 6⟩⟩, ⟨800000, ⟨1, 11, 2, 1, 4⟩⟩,
     ⟨1000000, ⟨1, 11, 2, 1, 3⟩⟩] ∧
  (State.reset.config.timingTable.map TimingRow.bitrate).Nodup ∧
  ∀ (s : State), s.config.timingTable = State.reset.config.timingTable →
    ∀ w ∈ s.config.timingTable, s.wordIn = some w.bitrate →
      exec .timing s = .next { s with request := none, response := some (.timing w.timing) }

/-- A bitrate is supported if and only if it equals a key of the table (R84). The table is one R86 allows. -/
def Obligations.TimingMatchesKeysExactly : Prop :=
  ∀ (s : State) (bitrate : Word), s.wordIn = some bitrate → s.config.tableValid = true →
    ((∃ t, exec .timing s = .next { s with request := none, response := some (.timing t) }) ↔
      bitrate ∈ s.config.timingTable.map TimingRow.bitrate) ∧
    (exec .timing s = .next { s with request := none, response := some .unsupportedBitrate } ↔
      bitrate ∉ s.config.timingTable.map TimingRow.bitrate)

/-- Every OK result of TIMING lies in the protocol-level ranges with `prop_seg` = `sjw` = 1, under every table the model
accepts, and in the smaller sets of R86 under the default table (R27, R86, which the spec derives). -/
def Obligations.TimingResultsAreInRange : Prop :=
  ∀ (s u : State) (t : BitTiming), exec .timing s = .next u → u.response = some (.timing t) →
    (t.propSeg = 1 ∧ t.sjw = 1 ∧ 1 ≤ t.phaseSeg1.toNat ∧ t.phaseSeg1.toNat ≤ 15 ∧
      1 ≤ t.phaseSeg2.toNat ∧ t.phaseSeg2.toNat ≤ 8 ∧ 1 ≤ t.brp.toNat ∧ t.brp.toNat ≤ 1024) ∧
    (s.config.timingTable = State.reset.config.timingTable →
      t.phaseSeg1 ∈ [11, 12] ∧ t.phaseSeg2 = 2 ∧ t.brp ∈ [3, 4, 6, 12, 24, 30, 36, 60, 150, 300])

/-- TIMING refuses a configured table with a row outside the ranges, with `prop_seg` or `sjw` other than 1, or with two rows
of one key (R86, decision D15; that only TIMING refuses it is log 6). -/
def Obligations.TimingRefusesABrokenTable : Prop :=
  ∀ (s : State) (bitrate : Word), s.wordIn = some bitrate →
    (¬ (s.config.timingTable.map TimingRow.bitrate).Nodup ∨
      ∃ w ∈ s.config.timingTable, w.timing.propSeg ≠ 1 ∨ w.timing.sjw ≠ 1 ∨
        w.timing.phaseSeg1.toNat < 1 ∨ 15 < w.timing.phaseSeg1.toNat ∨
        w.timing.phaseSeg2.toNat < 1 ∨ 8 < w.timing.phaseSeg2.toNat ∨
        w.timing.brp.toNat < 1 ∨ 1024 < w.timing.brp.toNat) →
    exec .timing s = .refused .badTimingTable

/-! ### TPAY (41_bit_timing.md section 2) -/

/-- TPAY completes with the 20 bytes of its pseudocode for any five values, in range or not, and changes nothing else
(R87, R88; the byte order is decision D12, log 11; that no range is checked is decision D13). -/
def Obligations.TpayWritesThePayload : Prop :=
  decodeCmd 0x05 = .tpay ∧
  ∀ (s : State) (t : BitTiming), s.timingIn = some t →
    exec .tpay s = .next { s with request := none, response := some (.tpay
      [t.propSeg.extractLsb' 0 8, t.propSeg.extractLsb' 8 8, t.propSeg.extractLsb' 16 8, t.propSeg.extractLsb' 24 8,
       t.phaseSeg1.extractLsb' 0 8, t.phaseSeg1.extractLsb' 8 8, t.phaseSeg1.extractLsb' 16 8,
       t.phaseSeg1.extractLsb' 24 8,
       t.phaseSeg2.extractLsb' 0 8, t.phaseSeg2.extractLsb' 8 8, t.phaseSeg2.extractLsb' 16 8,
       t.phaseSeg2.extractLsb' 24 8,
       t.sjw.extractLsb' 0 8, t.sjw.extractLsb' 8 8, t.sjw.extractLsb' 16 8, t.sjw.extractLsb' 24 8,
       t.brp.extractLsb' 0 8, t.brp.extractLsb' 8 8, t.brp.extractLsb' 16 8, t.brp.extractLsb' 24 8]) }

/-- The payload holds its five values: read back little-endian at 0, 4, 8, 12 and 16 they are the fields, and two timings
with one payload are equal (R63; the byte order is decision D12, log 11). -/
def Obligations.PayloadReadsBack : Prop :=
  (∀ t : BitTiming,
    memReadWord (timingPayload t) 0 = t.propSeg ∧ memReadWord (timingPayload t) 4 = t.phaseSeg1 ∧
    memReadWord (timingPayload t) 8 = t.phaseSeg2 ∧ memReadWord (timingPayload t) 12 = t.sjw ∧
    memReadWord (timingPayload t) 16 = t.brp) ∧
  (∀ t u : BitTiming, timingPayload t = timingPayload u → t = u)

/-- TPAY leaves no offset of its 20-byte sequence unwritten (R87: five consecutive `u32` writes). -/
def Obligations.TpayWritesEveryOffset : Prop :=
  ∀ (P Q : List Byte) (t : BitTiming), P.length = 20 → Q.length = 20 →
    (timingPayloadInto P t).length = 20 ∧ timingPayloadInto P t = timingPayloadInto Q t

/-! ### ERRDEC (42_error_decode.md section 1) -/

/-- ERRDEC of an error frame completes with the report whose flags are set exactly when their row's condition holds (R93)
and whose counters are `data[6]` and `data[7]` (R95), whatever `dlc` says (R97); nothing else changes. -/
def Obligations.ErrdecReportsFlagsAndCounters : Prop :=
  decodeCmd 0x06 = .errdec ∧
  ∀ (s : State) (f : CanFrame), s.frameIn = some f → f.canId.getLsbD 29 = true →
    ∃ e : ErrorReport,
      exec .errdec s = .next { s with request := none, response := some (.errdec e) } ∧
      (e.has .busOff = true ↔ f.canId &&& 0x40 ≠ 0) ∧
      (e.has .rxTxWarning = true ↔ f.data[1] &&& 0x04 ≠ 0) ∧
      (e.has .rxTxPassive = true ↔ f.data[1] &&& 0x10 ≠ 0 ∧ f.data[1] &&& 0x04 = 0) ∧
      (e.has .overload = true ↔ f.flags &&& 0x01 ≠ 0) ∧
      (e.has .stuff = true ↔ f.data[2] &&& 0x04 ≠ 0) ∧
      (e.has .form = true ↔ f.data[2] &&& 0x02 ≠ 0) ∧
      (e.has .ack = true ↔ f.canId &&& 0x20 ≠ 0) ∧
      (e.has .bitRecessive = true ↔ f.data[2] &&& 0x10 ≠ 0) ∧
      (e.has .bitDominant = true ↔ f.data[2] &&& 0x08 ≠ 0) ∧
      (e.has .crc = true ↔ f.data[3] &&& 0x08 ≠ 0) ∧
      e.txErrorCount = f.data[6] ∧ e.rxErrorCount = f.data[7]

/-- WARNING and PASSIVE are never both set in a report, in any state; with both bits in `data[1]` only WARNING is set
(R94). -/
def Obligations.WarningAndPassiveAreExclusive : Prop :=
  (∀ (s t : State) (e : ErrorReport), exec .errdec s = .next t → t.response = some (.errdec e) →
    ¬ (e.has .rxTxWarning = true ∧ e.has .rxTxPassive = true)) ∧
  (∀ (s : State) (f : CanFrame), s.frameIn = some f → f.canId.getLsbD 29 = true →
    f.data[1] &&& 0x04 ≠ 0 → f.data[1] &&& 0x10 ≠ 0 →
    ∃ e, exec .errdec s = .next { s with request := none, response := some (.errdec e) } ∧
      e.has .rxTxWarning = true ∧ e.has .rxTxPassive = false)

/-- ERRDEC of a frame with `can_id[29]` = 0 is the fault NotErrorFrame and no value; the step records the mark and the
response has no status and no port (R92, R99, R103; decision D24, log 5). -/
def Obligations.ErrdecFaultsOnNonErrorFrames : Prop :=
  ∀ (s : State) (f : CanFrame), s.frameIn = some f → f.canId.getLsbD 29 = false →
    exec .errdec s = .fault .notErrorFrame ∧
    (∀ r, s.request = some r → r.cmd = 0x06 → s.resetArrives = false →
      step s = .next { s with request := none, response := some .unspecified, notErrorFrame := true }) ∧
    Response.unspecified.status = none ∧ Response.unspecified.port = none

/-- ERRDEC reads the listed inputs and no others: two frames that agree on them have one response (R96, which the spec
derives). -/
def Obligations.ErrdecReadsOnlyItsInputs : Prop :=
  ∀ (s t : State) (f g : CanFrame), s.frameIn = some f → t.frameIn = some g → agreeOnErrdecInputs f g →
    replyOf (exec .errdec s) = replyOf (exec .errdec t)

/-- The ten named flags are all of `error_flags`: reports with the same flags and counters are equal (R28; the bit
positions are decision D14). -/
def Obligations.ReportIsItsFlagsAndCounters : Prop :=
  ∀ r q : ErrorReport, (∀ n, r.has n = q.has n) → r.txErrorCount = q.txErrorCount →
    r.rxErrorCount = q.rxErrorCount → r = q

/-! ### Illegal commands (30_encoding.md R59, 60_exceptions.md R101, R105) -/

/-- Each reserved row completes with ILLEGAL_OP in every state, whatever the ports hold, with no result port, and changes
nothing else (R59, R101; decision D5, log 12). -/
def Obligations.ReservedRowsAnswerIllegalOp : Prop :=
  (∀ s : State, exec .reservedZero s = .next { s with request := none, response := some .illegalOp }) ∧
  (∀ (op : BitVec 4) (s : State),
    exec (.reservedOp op) s = .next { s with request := none, response := some .illegalOp }) ∧
  (∀ (zero op : BitVec 4) (s : State),
    exec (.reservedHigh zero op) s = .next { s with request := none, response := some .illegalOp }) ∧
  Response.illegalOp.status = some .illegalOp ∧ Response.illegalOp.port = none

/-- The command is decoded first: a request with an illegal CMD is answered ILLEGAL_OP by the step, whatever its operand
ports hold (R105, decision D19). -/
def Obligations.CommandIsCheckedFirst : Prop :=
  ∀ (s : State) (r : Request), s.request = some r → s.resetArrives = false →
    (r.cmd.extractLsb' 4 4 ≠ 0#4 ∨ r.cmd.extractLsb' 0 4 = 0#4 ∨ 7 ≤ (r.cmd.extractLsb' 0 4).toNat) →
    step s = .next { s with request := none, response := some .illegalOp }

/-! ### Every instruction -/

/-- The frame of every instruction: where it answers a next state, the configuration, the mark and the host's own data are
unchanged, no request is in flight, and one response is pending (10_state.md section 1, R31; R104). -/
def Obligations.ExecChangesOnlyTheTransaction : Prop :=
  ∀ (i : Instr) (s t : State), exec i s = .next t →
    t.config = s.config ∧ t.notErrorFrame = s.notErrorFrame ∧ t.script = s.script ∧ t.received = s.received ∧
    t.request = none ∧ ∃ x, t.response = some x ∧ x ≠ .unspecified

/-- Every instruction reads only the operand port its opcode names: two states with one configuration and one value on that
port have one outcome and one response (R57, decision D7; R45, decision D2). Two clauses are the model's choice, log 4: R21
and R57 say only that a port the opcode does not name carries no value, and the model does not read one that does, so that
it changes nothing; and a request without its operand is refused, which the two states do alike. -/
def Obligations.ExecReadsOnlyItsPort : Prop :=
  ∀ (i : Instr) (s t : State), s.config = t.config →
    (∀ p, operandPort i = some p → samePort s t p) → replyOf (exec i s) = replyOf (exec i t)

/-- Every instruction completes where its operand is there and its precondition holds, with a status of its opcode, and
with its result port exactly when the status is OK (R57, decision D7; R100, decisions D5, D6). -/
def Obligations.EveryInstructionCompletes : Prop :=
  ∀ (i : Instr) (s : State), completes i s →
    ∃ x st, exec i s = .next { s with request := none, response := some x } ∧ x.status = some st ∧
      st ∈ statusesOf i ∧ x.port = (if st = .ok then resultPort i else none)

/-- Every response of an instruction has one of the four STATUS values, 0x00 to 0x03, and the four differ (R60, decision
D6). -/
def Obligations.StatusIsOneOfFour : Prop :=
  Status.ok.code = 0x00 ∧ Status.badLength.code = 0x01 ∧ Status.unsupportedBitrate.code = 0x02 ∧
  Status.illegalOp.code = 0x03 ∧
  ∀ (i : Instr) (s t : State), exec i s = .next t →
    ∃ x st, t.response = some x ∧ x.status = some st ∧ st.code.toNat ≤ 3

/-! ### Invariants and whole-machine rules -/

/-- Every step keeps the invariant: one transaction at a time, the table in its bounds, every response one its opcode can
give, and every response left open marked (20_memory.md R49, 10_state.md R22, 41_bit_timing.md R86, R94, R103; the host's
moves are log 2 and log 9, and going on past the fault is the model's choice, log 5). -/
def Obligations.StepKeepsTheInvariant : Prop :=
  ∀ s t : State, Inv s → step s = .next t → Inv t

/-- The state after reset meets the invariant. -/
def Obligations.ResetMeetsTheInvariant : Prop := Inv State.reset

/-- TIMING_TABLE is read only: no step and no number of steps changes it, nor does reset, which leaves the default ten rows
as they are (R30). -/
def Obligations.TimingTableIsReadOnly : Prop :=
  (∀ (n : Nat) (s t : State), core.run n s = .next t → t.config = s.config) ∧
  (∀ s : State, s.applyReset.config = s.config) ∧
  State.reset.config.timingTable = Config.defaultTimingTable

/-- The mark NotErrorFrame is never cleared, and a state that carries it is never good (R103, decision D24; that the run
goes on, and that a reset keeps the mark, are the model's choices, log 5, log 9). -/
def Obligations.FaultMarkIsNeverCleared : Prop :=
  ∀ (n : Nat) (s t : State), s.notErrorFrame = true → core.run n s = .next t →
    t.notErrorFrame = true ∧ good t = false

/-- Only ERRDEC on a frame with `can_id[29]` = 0 sets the mark (R99, R100; decision D24; that the step sets it
and goes on is the model's choice, log 5). -/
def Obligations.OnlyErrdecSetsTheMark : Prop :=
  ∀ s t : State, step s = .next t → s.notErrorFrame = false → t.notErrorFrame = true →
    ∃ r f, s.request = some r ∧ r.cmd = 0x06 ∧ r.frameIn = some f ∧ f.canId.getLsbD 29 = false

/-- No state makes the block fault for good or get stuck: a step never faults, and it refuses only a request whose named
port carries no value, a buffer above a configured MAX_BUF_LEN, or a configured table outside its bounds (R98, which the
spec derives). That a step never faults is the model's choice, log 5: R92 and R99 make ERRDEC on a non-error frame the fault
NotErrorFrame, which `exec` answers, and `step` records it as the mark of R103 and goes on, as R103 allows. The refusal of a
request without its operand is log 4, and that of a broken table is log 6. -/
def Obligations.StepsStopOnlyForRefusals : Prop :=
  ∀ s : State, (∀ e, step s ≠ .fault e) ∧
    (∀ e, step s = .refused e → ∃ r, s.request = some r ∧
      ((∃ p, operandPort (decodeCmd r.cmd) = some p ∧ r.carries p = false ∧ e = .noOperand p) ∨
       (∃ B m, r.cmd = 0x02 ∧ r.bufIn = some B ∧ s.config.maxBufLen = some m ∧ m < B.length ∧ e = .bufferTooLong) ∨
       (r.cmd = 0x04 ∧ s.config.tableValid = false ∧ e = .badTimingTable)))

/-- With the default configuration every well-formed request completes in one step with a response (R98, R99, R125; the
completion assumption is the spec's decision D2, log 10). A well-formed request includes ERRDEC on a frame with
`can_id[29]` = 0. There the next state is the model's choice, log 5: R92 and R99 make it the fault NotErrorFrame and leave
the response unspecified, and the step records the mark of R103, ends the transaction, and has as its response
`unspecified`, which has no status and no port. -/
def Obligations.WellFormedRequestsComplete : Prop :=
  ∀ (s : State) (r : Request), s.request = some r → r.wellFormed = true → s.resetArrives = false →
    s.config = Config.default →
    ∃ t x, step s = .next t ∧ t.request = none ∧ t.response = some x ∧ t.config = s.config ∧
      t.script = s.script ∧ t.received = s.received

/-- A response is a function of the request and the configuration alone: nothing of earlier transactions, of the mark or of
the host reaches it (R45, decision D2; R46, which the spec derives). Where the request is ERRDEC on a non-error frame, the
steps agree in `unspecified`, which is the model's choice, log 5, and where its operand is missing, in the refusal of
log 4. -/
def Obligations.ResponseDependsOnTheRequestAlone : Prop :=
  ∀ (s t : State) (r : Request), s.request = some r → t.request = some r → s.config = t.config →
    s.resetArrives = false → t.resetArrives = false → replyOf (step s) = replyOf (step t)

/-- Response i answers request i: a host script of requests, served from any state between transactions, is answered in
order, each request with the response a fresh block gives it alone; errors before it leave no trace (R49, decision D2; R75
and R104, which the spec derives). Each request takes two steps, and one more reads the last response (the model's own host
agent, log 2). `xs` may hold `unspecified`, for ERRDEC on a non-error frame: that the run goes on past that fault and that
the host reads it as a response without status or port is the model's choice, log 5. The statement is about the responses
and does not speak of the mark, which such a run sets (R103; `FaultMarkIsNeverCleared`, `OnlyErrdecSetsTheMark`). -/
def Obligations.RequestsAreAnsweredInOrder : Prop :=
  ∀ (s : State) (rs : List Request) (xs : List Response), idle s → s.script = rs.map HostEvent.issue →
    rs.map (replyTo s.config) = xs.map some →
    ∃ t, core.run (2 * rs.length + 1) s = .next t ∧ idle t ∧ t.script = [] ∧ t.config = s.config ∧
      t.received = s.received ++ xs

/-! ### Reset (70_reset_and_hazards.md) -/

/-- After reset no transaction is in flight, no response is pending, both parameters have their defaults, and a request is
accepted at once (R34, R118, decision D17; the mark and the host's own data are the model's choice, log 2, log 5). -/
def Obligations.ResetLeavesTheBlockEmpty : Prop :=
  State.reset.request = none ∧ State.reset.response = none ∧ State.reset.config = Config.default ∧
  State.reset.notErrorFrame = false ∧
  ∀ r, step { State.reset with script := [.issue r] } = .next { State.reset with request := some r }

/-- A reset that arrives during a transaction abandons it: no response to it is delivered, then or later from it, and
nothing of it is visible (R119, decision D17; the event is log 9). -/
def Obligations.ResetAbandonsTheTransaction : Prop :=
  ∀ (s : State) (r : Request) (rest : List HostEvent), s.request = some r → s.script = .reset :: rest →
    step s = .next { s with request := none, response := none, script := rest }

/-! ### Values for claims -/

/-- The timestamp in seconds is the exact rational `timestamp_us / 1 000 000`, between 0 and 4294.967295 (R81, decision
D20). -/
def Obligations.TimestampIsAnExactRational : Prop :=
  ∀ f : CanFrame, f.timestampSeconds * 1000000 = (f.timestampUs.toNat : Rat) ∧
    0 ≤ f.timestampSeconds ∧ f.timestampSeconds ≤ 4294967295 / 1000000

/-- The informative bit rates at 48 MHz: the 16-quanta rows have sample point 7/8, the two others 13/15; every rate but two
is its key, the 83333 row gives 250000/3 and the 1000000 row gives 3200000/3 (R89, from general knowledge G1, log 15; 90
C1). -/
def Obligations.DefaultRowsHaveTheirBitRates : Prop :=
  (∀ w ∈ Config.defaultTimingTable.take 8, tqPerBit w.timing = 16 ∧ samplePoint w.timing = 7 / 8) ∧
  (∀ w ∈ Config.defaultTimingTable.drop 8, tqPerBit w.timing = 15 ∧ samplePoint w.timing = 13 / 15) ∧
  (∀ w ∈ Config.defaultTimingTable, bitRate w.timing =
    if w.bitrate = 83333 then 250000 / 3 else if w.bitrate = 1000000 then 3200000 / 3 else (w.bitrate.toNat : Rat))

/-- Every written request of the notation is a well-formed request for the instruction it names, and two written requests
that put the same on the ports are one (R67, decision D21; R21, R57, decision D7). -/
def Obligations.WrittenRequestsAreWellFormed : Prop :=
  (∀ a : Asm, asmWellFormed a = true →
    (assemble a).wellFormed = true ∧ decodeCmd (assemble a).cmd = asmInstr a) ∧
  (∀ a b : Asm, asmWellFormed a = true → asmWellFormed b = true → assemble a = assemble b → a = b)
end

