-- ==== Sys2Proof/Laws/Encoding.lean ====
section
/-!
SUPPORT. The decoder on the six legal CMD bytes, and the CMD byte of a table word.
-/
namespace Sys2Proof

@[simp] theorem decodeCmd_enc : decodeCmd 1#8 = .enc := by decide

@[simp] theorem decodeCmd_dec : decodeCmd 2#8 = .dec := by decide

@[simp] theorem decodeCmd_cls : decodeCmd 3#8 = .cls := by decide

@[simp] theorem decodeCmd_timing : decodeCmd 4#8 = .timing := by decide

@[simp] theorem decodeCmd_tpay : decodeCmd 5#8 = .tpay := by decide

@[simp] theorem decodeCmd_errdec : decodeCmd 6#8 = .errdec := by decide

/-- The byte of an 8-bit table word is that byte. -/
@[simp] theorem cmdByte_toNat (cmd : Byte) : cmdByte 8 cmd.toNat = cmd := by
  apply BitVec.eq_of_toNat_eq
  have := cmd.isLt
  simp only [cmdByte, BitVec.toNat_ofNat]
  omega

end Sys2Proof
end

