-- ==== Sys2Proof/Laws/Memory.lean ====
section
/-!
SUPPORT. What the memory primitives do (00_scope.md R15): lengths, the bytes a write changes and the bytes it leaves, and
that reading back what was written gives it.
-/
namespace Sys2Proof.Machine

@[simp] theorem blankBytes_length (n : Nat) : (blankBytes n).length = n := List.length_replicate

@[simp] theorem memWrite_length {w : Nat} (B : List Byte) (off n : Nat) (v : BitVec w) :
    (memWrite B off n v).length = B.length := by
  induction n with
  | zero => rfl
  | succ n ih => simp [memWrite, ih]

/-- A write leaves every offset outside its `n` bytes alone. -/
theorem memWrite_getElem?_outside {w : Nat} (B : List Byte) (off n k : Nat) (v : BitVec w)
    (h : k < off ∨ off + n ≤ k) : (memWrite B off n v)[k]? = B[k]? := by
  induction n with
  | zero => rfl
  | succ n ih =>
    rw [memWrite, List.getElem?_set_ne (by omega), ih (by omega)]

/-- A write within the sequence puts byte `k` of the value at offset `off + k`. -/
theorem memWrite_getElem?_inside {w : Nat} (B : List Byte) (off n k : Nat) (v : BitVec w) (hk : k < n)
    (hB : off + n ≤ B.length) : (memWrite B off n v)[off + k]? = some (byteOf v k) := by
  induction n with
  | zero => omega
  | succ n ih =>
    by_cases h : k = n
    · subst h
      rw [memWrite, List.getElem?_set_self (by simp; omega)]
    · rw [memWrite, List.getElem?_set_ne (by omega), ih (by omega) (by omega)]

/-- Byte `k` of a word as a number. -/
theorem byteOf_toNat {w : Nat} (v : BitVec w) (k : Nat) : (byteOf v k).toNat = v.toNat / 2 ^ (8 * k) % 256 := by
  simp [byteOf, BitVec.extractLsb'_toNat, Nat.shiftRight_eq_div_pow]

/-- A `u32` is the sum of its four bytes. -/
theorem word_eq_bytes (v : Word) :
    v.toNat = (byteOf v 0).toNat + (byteOf v 1).toNat * 2 ^ 8 + (byteOf v 2).toNat * 2 ^ 16 +
      (byteOf v 3).toNat * 2 ^ 24 := by
  have h := v.isLt
  simp only [byteOf_toNat]
  omega

/-- `MemRead(B, off, 4)` as a number. -/
theorem memReadWord_toNat (B : List Byte) (off : Nat) :
    (memReadWord B off).toNat = (B.getD off 0).toNat + (B.getD (off + 1) 0).toNat * 2 ^ 8 +
      (B.getD (off + 2) 0).toNat * 2 ^ 16 + (B.getD (off + 3) 0).toNat * 2 ^ 24 := by
  have h0 := (B.getD off 0).isLt
  have h1 := (B.getD (off + 1) 0).isLt
  have h2 := (B.getD (off + 2) 0).isLt
  have h3 := (B.getD (off + 3) 0).isLt
  simp only [memReadWord, memRead, memReadNat, BitVec.toNat_ofNat, Nat.add_zero]
  omega

/-- Reading the four bytes of a word gives the word. -/
theorem memReadWord_of_bytes {B : List Byte} {off : Nat} {v : Word}
    (h : ∀ k, k < 4 → B[off + k]? = some (byteOf v k)) : memReadWord B off = v := by
  apply BitVec.eq_of_toNat_eq
  have h0 := h 0 (by omega)
  rw [Nat.add_zero] at h0
  rw [memReadWord_toNat, word_eq_bytes v]
  simp [List.getD_eq_getElem?_getD, h0, h 1 (by omega), h 2 (by omega), h 3 (by omega)]

/-- A byte of the word that four bytes make is that byte. -/
theorem byteOf_memReadWord (B : List Byte) (off k : Nat) (hk : k < 4) :
    byteOf (memReadWord B off) k = B.getD (off + k) 0 := by
  apply BitVec.eq_of_toNat_eq
  have h0 := (B.getD off 0).isLt
  have h1 := (B.getD (off + 1) 0).isLt
  have h2 := (B.getD (off + 2) 0).isLt
  have h3 := (B.getD (off + 3) 0).isLt
  rw [byteOf_toNat, memReadWord_toNat]
  obtain rfl | rfl | rfl | rfl : k = 0 ∨ k = 1 ∨ k = 2 ∨ k = 3 := by omega
  · rw [Nat.add_zero off]
    omega
  all_goals omega

end Sys2Proof.Machine
end

