-- ==== Sys2Proof/Laws/State.lean ====
section
/-!
SUPPORT. One lemma per field of State per update, so that no proof unfolds an update, and the operand ports of the state
in terms of its request.
-/
namespace Sys2Proof.Machine

/-! ### `State.answer` -/

@[simp] theorem State.answer_request (s : State) (x : Response) : (s.answer x).request = none := rfl
@[simp] theorem State.answer_response (s : State) (x : Response) : (s.answer x).response = some x := rfl
@[simp] theorem State.answer_config (s : State) (x : Response) : (s.answer x).config = s.config := rfl
@[simp] theorem State.answer_notErrorFrame (s : State) (x : Response) : (s.answer x).notErrorFrame = s.notErrorFrame := rfl
@[simp] theorem State.answer_script (s : State) (x : Response) : (s.answer x).script = s.script := rfl
@[simp] theorem State.answer_received (s : State) (x : Response) : (s.answer x).received = s.received := rfl

/-! ### `State.recordFault` -/

@[simp] theorem State.recordFault_request (s : State) : (s.recordFault).request = none := rfl
@[simp] theorem State.recordFault_response (s : State) : (s.recordFault).response = some .unspecified := rfl
@[simp] theorem State.recordFault_config (s : State) : (s.recordFault).config = s.config := rfl
@[simp] theorem State.recordFault_notErrorFrame (s : State) : (s.recordFault).notErrorFrame = true := rfl
@[simp] theorem State.recordFault_script (s : State) : (s.recordFault).script = s.script := rfl
@[simp] theorem State.recordFault_received (s : State) : (s.recordFault).received = s.received := rfl

/-! ### `State.applyReset` -/

@[simp] theorem State.applyReset_request (s : State) : (s.applyReset).request = none := rfl
@[simp] theorem State.applyReset_response (s : State) : (s.applyReset).response = none := rfl
@[simp] theorem State.applyReset_config (s : State) : (s.applyReset).config = s.config := rfl
@[simp] theorem State.applyReset_notErrorFrame (s : State) : (s.applyReset).notErrorFrame = s.notErrorFrame := rfl
@[simp] theorem State.applyReset_script (s : State) : (s.applyReset).script = s.script := rfl
@[simp] theorem State.applyReset_received (s : State) : (s.applyReset).received = s.received := rfl

/-! ### `State.collect` -/

@[simp] theorem State.collect_request (s : State) : (s.collect).request = s.request := rfl
@[simp] theorem State.collect_response (s : State) : (s.collect).response = none := rfl
@[simp] theorem State.collect_config (s : State) : (s.collect).config = s.config := rfl
@[simp] theorem State.collect_notErrorFrame (s : State) : (s.collect).notErrorFrame = s.notErrorFrame := rfl
@[simp] theorem State.collect_script (s : State) : (s.collect).script = s.script := rfl
@[simp] theorem State.collect_received (s : State) : (s.collect).received = s.received ++ s.response.toList := rfl

/-! ### `State.reset` -/

@[simp] theorem State.reset_request : State.reset.request = none := rfl
@[simp] theorem State.reset_response : State.reset.response = none := rfl
@[simp] theorem State.reset_config : State.reset.config = Config.default := rfl
@[simp] theorem State.reset_notErrorFrame : State.reset.notErrorFrame = false := rfl
@[simp] theorem State.reset_script : State.reset.script = [] := rfl
@[simp] theorem State.reset_received : State.reset.received = [] := rfl

/-! ### Operand ports -/

theorem State.frameIn_of_request {s : State} {r : Request} (h : s.request = some r) : s.frameIn = r.frameIn := by
  simp [State.frameIn, h]

theorem State.bufIn_of_request {s : State} {r : Request} (h : s.request = some r) : s.bufIn = r.bufIn := by
  simp [State.bufIn, h]

theorem State.wordIn_of_request {s : State} {r : Request} (h : s.request = some r) : s.wordIn = r.wordIn := by
  simp [State.wordIn, h]

theorem State.timingIn_of_request {s : State} {r : Request} (h : s.request = some r) : s.timingIn = r.timingIn := by
  simp [State.timingIn, h]

end Sys2Proof.Machine
end

