-- ==== Sys2Proof/Laws/Ops.lean ====
section
/-!
SUPPORT. What each shared operation can do, said once: reading a port, settling, the host agent's turn, a step, and a run of steps.
-/
namespace Sys2Proof.Machine

@[simp] theorem State.respond_eq (s : State) (x : Response) : s.respond x = .next (s.answer x) := rfl

@[simp] theorem readPort_some {α : Type} (p : Port) (v : α) (k : α → Host.Outcome State Fault Refusal) :
    readPort p (some v) k = k v := rfl

@[simp] theorem readPort_none {α : Type} (p : Port) (k : α → Host.Outcome State Fault Refusal) :
    readPort p none k = .refused (.noOperand p) := rfl

/-- Reading a port either refuses for want of a value or goes on with the value. -/
theorem readPort_cases {α : Type} (p : Port) (value : Option α) (k : α → Host.Outcome State Fault Refusal) :
    (value = none ∧ readPort p value k = .refused (.noOperand p)) ∨
      ∃ v, value = some v ∧ readPort p value k = k v := by
  cases value with
  | none => exact .inl ⟨rfl, rfl⟩
  | some v => exact .inr ⟨v, rfl, rfl⟩

@[simp] theorem settle_next (s t : State) : settle s (.next t) = .next t := rfl

@[simp] theorem settle_refused (s : State) (r : Refusal) : settle s (.refused r) = .refused r := rfl

@[simp] theorem settle_fault (s : State) : settle s (.fault .notErrorFrame) = .next s.recordFault := rfl

/-- Settling answers a next state only from a next state or by recording the fault. -/
theorem settle_eq_next {s t : State} {o : Host.Outcome State Fault Refusal} (h : settle s o = .next t) :
    o = .next t ∨ (o = .fault .notErrorFrame ∧ t = s.recordFault) := by
  match o, h with
  | .next _, h => exact .inl h
  | .fault .notErrorFrame, h => exact .inr ⟨rfl, by cases h; rfl⟩

/-- What the host agent's turn leaves: the configuration and the mark. -/
theorem State.hostTurn_frame (s : State) :
    s.hostTurn.config = s.config ∧ s.hostTurn.notErrorFrame = s.notErrorFrame := by
  unfold State.hostTurn
  split <;> exact ⟨rfl, rfl⟩

/-- A step is the host agent's turn, or the decoded instruction, settled. -/
theorem step_cases (s : State) :
    ((s.request = none ∨ s.resetArrives = true) ∧ step s = .next s.hostTurn) ∨
      ∃ r, s.request = some r ∧ s.resetArrives = false ∧ step s = settle s (exec (decodeCmd r.cmd) s) := by
  unfold step
  cases h : s.request with
  | none => exact .inl ⟨.inl rfl, rfl⟩
  | some r =>
    cases hr : s.resetArrives with
    | true => exact .inl ⟨.inr rfl, by simp⟩
    | false => exact .inr ⟨r, rfl, rfl, by simp⟩

/-- Putting a CMD byte in a request gives a request of that CMD. -/
@[simp] theorem Request.withCmd_cmd (r : Request) (cmd : Byte) : (r.withCmd cmd).cmd = cmd := by
  unfold Request.withCmd
  split <;> rfl

/-- Where the host's resets that come first are dropped, none arrives. -/
theorem resetArrives_of_dropWhile {s : State} {l : List HostEvent}
    (h : s.script = l.dropWhile (fun e => e == .reset)) : s.resetArrives = false := by
  induction l with
  | nil => simp [State.resetArrives, h]
  | cons e l ih =>
    cases e with
    | reset =>
      rw [List.dropWhile_cons_of_pos (by decide)] at h
      exact ih h
    | issue r =>
      rw [List.dropWhile_cons_of_neg (by simp)] at h
      simp [State.resetArrives, h]
    | read =>
      rw [List.dropWhile_cons_of_neg (by simp)] at h
      simp [State.resetArrives, h]

/-- A CMD byte placed is in flight, and no reset arrives before it is performed. -/
theorem State.placeCmd_spec (s : State) (cmd : Byte) :
    (∃ r, (s.placeCmd cmd).request = some r ∧ r.cmd = cmd) ∧ (s.placeCmd cmd).resetArrives = false ∧
      (s.placeCmd cmd).config = s.config ∧ (s.placeCmd cmd).notErrorFrame = s.notErrorFrame :=
  ⟨⟨_, rfl, Request.withCmd_cmd _ _⟩, resetArrives_of_dropWhile (l := s.script) rfl, rfl, rfl⟩

@[simp] theorem run_zero (s : State) : core.run 0 s = .next s := rfl

/-- A run of one more step, for any machine of the host's interface. -/
theorem run_succ (M : Host.Core) (n : Nat) (s : M.State) :
    M.run (n + 1) s =
      match M.step s with
      | .next t => M.run n t
      | .fault r => .fault r
      | .refused r => .refused r := by rfl

/-- A run whose first step answers a next state goes on from it. -/
theorem run_succ_of_next {n : Nat} {s t : State} (h : step s = .next t) : core.run (n + 1) s = core.run n t := by
  rw [run_succ core n s, show core.step s = _ from h]

/-- A run that answers a next state answers one at its first step. -/
theorem run_succ_eq_next {n : Nat} {s u : State} (h : core.run (n + 1) s = .next u) :
    ∃ t, step s = .next t ∧ core.run n t = .next u := by
  rw [run_succ core n s] at h
  cases hs : step s with
  | next t => exact ⟨t, rfl, by rwa [show core.step s = _ from hs] at h⟩
  | fault r => rw [show core.step s = _ from hs] at h; cases h
  | refused r => rw [show core.step s = _ from hs] at h; cases h

end Sys2Proof.Machine
end

