-- ==== Sys2Proof/Laws/Exec.lean ====
section
/-!
SUPPORT. The meaning of each instruction on the values of its port, and the one thing `exec` can do when it answers a next
state. The provers cite these and need not unfold a meaning.
-/
namespace Sys2Proof.Machine

theorem execEnc_of_frame {s : State} {f : CanFrame} (h : s.frameIn = some f) :
    execEnc s = .next (s.answer (.enc (encodeFrame f))) := by
  simp [execEnc, h]

theorem execDec_of_buffer {s : State} {B : List Byte} (h : s.bufIn = some B) :
    execDec s = if s.config.bufTooLong B.length then .refused .bufferTooLong
      else if B.length = 24 then .next (s.answer (.dec (decodeFrame B)))
      else .next (s.answer .badLength) := by
  by_cases hB : B.length = 24 <;> simp [execDec, h, hB]

theorem execCls_of_word {s : State} {id : Word} (h : s.wordIn = some id) :
    execCls s = .next (s.answer (.cls (classify id))) := by
  simp [execCls, h]

theorem execTiming_of_word {s : State} {b : Word} (h : s.wordIn = some b) :
    execTiming s = if s.config.tableValid then
        .next (s.answer (match lookupTiming s.config.timingTable b with
          | some t => .timing t
          | none => .unsupportedBitrate))
      else .refused .badTimingTable := by
  simp only [execTiming, h, readPort_some, State.respond_eq]
  cases s.config.tableValid with
  | false => rfl
  | true => cases lookupTiming s.config.timingTable b <;> rfl

theorem execTpay_of_timing {s : State} {t : BitTiming} (h : s.timingIn = some t) :
    execTpay s = .next (s.answer (.tpay (timingPayload t))) := by
  simp [execTpay, h]

theorem execErrdec_of_frame {s : State} {f : CanFrame} (h : s.frameIn = some f) :
    execErrdec s = if f.isErrorFrame then .next (s.answer (.errdec (errorReportOf f)))
      else .fault .notErrorFrame := by
  simp [execErrdec, h]

/-- The payload length and the frame length. -/
@[simp] theorem encodeFrame_length (f : CanFrame) : (encodeFrame f).length = 24 := by
  simp [encodeFrame, encodeFrameInto]

@[simp] theorem timingPayload_length (t : BitTiming) : (timingPayload t).length = 20 := by
  simp [timingPayload, timingPayloadInto]

/-- What an instruction can answer: its own response on the value of its port. -/
theorem exec_eq_next {i : Instr} {s t : State} (h : exec i s = .next t) :
    ∃ x, t = s.answer x ∧ match i with
      | .enc => ∃ f, s.frameIn = some f ∧ x = .enc (encodeFrame f)
      | .dec => ∃ B, s.bufIn = some B ∧ s.config.bufTooLong B.length = false ∧
          ((B.length = 24 ∧ x = .dec (decodeFrame B)) ∨ (B.length ≠ 24 ∧ x = .badLength))
      | .cls => ∃ id, s.wordIn = some id ∧ x = .cls (classify id)
      | .timing => ∃ b, s.wordIn = some b ∧ s.config.tableValid = true ∧
          ((∃ u, lookupTiming s.config.timingTable b = some u ∧ x = .timing u) ∨
            (lookupTiming s.config.timingTable b = none ∧ x = .unsupportedBitrate))
      | .tpay => ∃ u, s.timingIn = some u ∧ x = .tpay (timingPayload u)
      | .errdec => ∃ f, s.frameIn = some f ∧ f.isErrorFrame = true ∧ x = .errdec (errorReportOf f)
      | .reservedZero | .reservedOp _ | .reservedHigh _ _ => x = .illegalOp := by
  cases i with
  | enc =>
    rcases hp : s.frameIn with _ | f
    · simp [exec, execEnc, hp] at h
    · simp only [exec, execEnc_of_frame hp, Host.Outcome.next.injEq] at h
      exact ⟨_, h.symm, f, rfl, rfl⟩
  | dec =>
    rcases hp : s.bufIn with _ | B
    · simp [exec, execDec, hp] at h
    · simp only [exec, execDec_of_buffer hp] at h
      split at h
      · cases h
      · rename_i hl
        split at h <;> rename_i h24 <;> cases h
        · exact ⟨_, rfl, B, rfl, by simpa using hl, .inl ⟨h24, rfl⟩⟩
        · exact ⟨_, rfl, B, rfl, by simpa using hl, .inr ⟨h24, rfl⟩⟩
  | cls =>
    rcases hp : s.wordIn with _ | id
    · simp [exec, execCls, hp] at h
    · simp only [exec, execCls_of_word hp, Host.Outcome.next.injEq] at h
      exact ⟨_, h.symm, id, rfl, rfl⟩
  | timing =>
    rcases hp : s.wordIn with _ | b
    · simp [exec, execTiming, hp] at h
    · simp only [exec, execTiming_of_word hp] at h
      split at h
      · rename_i hv
        rcases hl : lookupTiming s.config.timingTable b with _ | u <;> rw [hl] at h <;> cases h
        · exact ⟨_, rfl, b, rfl, hv, .inr ⟨hl, rfl⟩⟩
        · exact ⟨_, rfl, b, rfl, hv, .inl ⟨u, hl, rfl⟩⟩
      · cases h
  | tpay =>
    rcases hp : s.timingIn with _ | u
    · simp [exec, execTpay, hp] at h
    · simp only [exec, execTpay_of_timing hp, Host.Outcome.next.injEq] at h
      exact ⟨_, h.symm, u, rfl, rfl⟩
  | errdec =>
    rcases hp : s.frameIn with _ | f
    · simp [exec, execErrdec, hp] at h
    · simp only [exec, execErrdec_of_frame hp] at h
      split at h
      · rename_i he
        cases h
        exact ⟨_, rfl, f, rfl, he, rfl⟩
      · cases h
  | reservedZero => cases h; exact ⟨_, rfl, rfl⟩
  | reservedOp op => cases h; exact ⟨_, rfl, rfl⟩
  | reservedHigh zero op => cases h; exact ⟨_, rfl, rfl⟩

/-- Only ERRDEC faults, and only on a frame that is no error frame. -/
theorem exec_eq_fault {i : Instr} {s : State} {e : Fault} (h : exec i s = .fault e) :
    i = .errdec ∧ ∃ f, s.frameIn = some f ∧ f.isErrorFrame = false := by
  cases i with
  | enc => rcases hp : s.frameIn with _ | f <;> simp [exec, execEnc, hp] at h
  | dec =>
    rcases hp : s.bufIn with _ | B
    · simp [exec, execDec, hp] at h
    · simp only [exec, execDec_of_buffer hp] at h
      split at h
      · cases h
      · split at h <;> cases h
  | cls => rcases hp : s.wordIn with _ | id <;> simp [exec, execCls, hp] at h
  | timing =>
    rcases hp : s.wordIn with _ | b
    · simp [exec, execTiming, hp] at h
    · simp only [exec, execTiming_of_word hp] at h
      split at h <;> cases h
  | tpay => rcases hp : s.timingIn with _ | u <;> simp [exec, execTpay, hp] at h
  | errdec =>
    rcases hp : s.frameIn with _ | f
    · simp [exec, execErrdec, hp] at h
    · simp only [exec, execErrdec_of_frame hp] at h
      split at h
      · cases h
      · rename_i he
        exact ⟨rfl, f, rfl, by simpa using he⟩
  | reservedZero => cases h
  | reservedOp op => cases h
  | reservedHigh zero op => cases h

end Sys2Proof.Machine
end

