-- ==== Sys2Proof/Laws/Flags.lean ====
section
/-!
SUPPORT. What the bit tests and the flag computation of ERRDEC do (42_error_decode.md R91, R127).
-/
namespace Sys2Proof.Machine

/-- A bit test with a one-bit mask is that bit. -/
theorem bitsSet_twoPow {w : Nat} (v : BitVec w) (n : Nat) (hn : n < w) :
    bitsSet v (BitVec.twoPow w n) = v.getLsbD n := by
  rw [bitsSet, BitVec.and_twoPow]
  cases h : v.getLsbD n with
  | false => simp [bne]
  | true =>
    simp only [↓reduceIte, bne_iff_ne]
    intro hc
    have := congrArg (fun x => x.getLsbD n) hc
    simp [hn] at this

/-- The bits of `error_flags` are told apart by their flags. -/
theorem ErrorFlag.bit_inj (m n : ErrorFlag) : (m.bit = n.bit) ↔ m = n := by
  cases m <;> cases n <;> decide

theorem ErrorFlag.bit_lt (n : ErrorFlag) : n.bit < 10 := by cases n <;> decide

/-- Setting a flag under a condition sets that flag and leaves the others. -/
theorem setFlagIf_getLsbD (c : Bool) (n m : ErrorFlag) (e : BitVec 10) :
    (setFlagIf c n e).getLsbD m.bit = (e.getLsbD m.bit || (c && decide (m = n))) := by
  cases c with
  | false => simp [setFlagIf]
  | true =>
    simp only [setFlagIf, ↓reduceIte, BitVec.getLsbD_or, BitVec.getLsbD_twoPow, Bool.true_and]
    congr 1
    simp only [← ErrorFlag.bit_inj m n, ErrorFlag.bit_lt n, decide_true, Bool.true_and]
    exact decide_eq_decide.2 eq_comm

/-- The else-if of R94 sets WARNING on bit 0x04, PASSIVE on bit 0x10 without bit 0x04, and leaves the other flags. -/
theorem setWarningOrPassive_getLsbD (b : Byte) (m : ErrorFlag) (e : BitVec 10) :
    (setWarningOrPassive b e).getLsbD m.bit = (e.getLsbD m.bit ||
      (bitsSet b 0x04 && decide (m = .rxTxWarning)) ||
      (bitsSet b 0x10 && !bitsSet b 0x04 && decide (m = .rxTxPassive))) := by
  unfold setWarningOrPassive
  cases bitsSet b 0x04 <;> simp [setFlagIf_getLsbD]

end Sys2Proof.Machine
end

