-- ==== Sys2Proof/Laws/Frame.lean ====
section
/-! SUPPORT. The bytes of the wire image ENC writes, in order (40_frame_codec.md R68). -/
namespace Sys2Proof.Machine

theorem encodeFrame_eq (f : CanFrame) :
    encodeFrame f =
      [byteOf f.echoId 0, byteOf f.echoId 1, byteOf f.echoId 2, byteOf f.echoId 3,
       byteOf f.canId 0, byteOf f.canId 1, byteOf f.canId 2, byteOf f.canId 3,
       f.dlc, f.channel, f.flags, f.reserved,
       f.data[0], f.data[1], f.data[2], f.data[3], f.data[4], f.data[5], f.data[6], f.data[7],
       byteOf f.timestampUs 0, byteOf f.timestampUs 1, byteOf f.timestampUs 2, byteOf f.timestampUs 3] := by
  simp [encodeFrame, encodeFrameInto, memWrite, blankBytes, List.replicate]

end Sys2Proof.Machine
end

