-- ==== Sys2Proof/Laws/PerInstr.lean ====
section
/-!
SUPPORT. The per-instruction family `Ports` (30_encoding.md R57): an instruction names operand and result ports together or
not at all, and an instruction that names none is reserved and answers ILLEGAL_OP alone.
-/
namespace Sys2Proof.Laws.Ports

open Sys2Proof.Machine

/-- The two port columns of R57 and its status column agree with the instruction being reserved or not. -/
def Statement (i : Instr) : Prop :=
  (operandPort i).isSome = !i.isReserved ∧ (resultPort i).isSome = !i.isReserved ∧
    (Status.ok ∈ statusesOf i ↔ i.isReserved = false) ∧ (Status.illegalOp ∈ statusesOf i ↔ i.isReserved = true)

theorem enc : Statement .enc := by simp [Statement, operandPort, resultPort, statusesOf, Instr.isReserved]

theorem dec : Statement .dec := by simp [Statement, operandPort, resultPort, statusesOf, Instr.isReserved]

theorem cls : Statement .cls := by simp [Statement, operandPort, resultPort, statusesOf, Instr.isReserved]

theorem timing : Statement .timing := by simp [Statement, operandPort, resultPort, statusesOf, Instr.isReserved]

theorem tpay : Statement .tpay := by simp [Statement, operandPort, resultPort, statusesOf, Instr.isReserved]

theorem errdec : Statement .errdec := by simp [Statement, operandPort, resultPort, statusesOf, Instr.isReserved]

theorem reservedZero : Statement .reservedZero := by
  simp [Statement, operandPort, resultPort, statusesOf, Instr.isReserved]

theorem reservedOp (op : BitVec 4) : Statement (.reservedOp op) := by
  simp [Statement, operandPort, resultPort, statusesOf, Instr.isReserved]

theorem reservedHigh (zero op : BitVec 4) : Statement (.reservedHigh zero op) := by
  simp [Statement, operandPort, resultPort, statusesOf, Instr.isReserved]

end Sys2Proof.Laws.Ports
end

