-- ==== Sys2Proof/Laws/Timing.lean ====
section
/-!
SUPPORT. What the table lookup answers (41_bit_timing.md R82, R84), what a valid table holds (R86), and the payload's bytes
(R87).
-/
namespace Sys2Proof.Machine

/-- A valid table: every row valid, and the keys without repeats. -/
theorem tableValid_iff (c : Config) :
    c.tableValid = true ↔ (∀ w ∈ c.timingTable, w.valid = true) ∧ (c.timingTable.map TimingRow.bitrate).Nodup := by
  simp [Config.tableValid]

/-- In a table without repeated keys the lookup of a row's key finds that row. -/
theorem lookupTiming_of_mem {table : List TimingRow} (hn : (table.map TimingRow.bitrate).Nodup) {w : TimingRow}
    (hw : w ∈ table) :
    lookupTiming table w.bitrate = some
      { propSeg := 1, phaseSeg1 := w.timing.phaseSeg1, phaseSeg2 := w.timing.phaseSeg2, sjw := 1,
        brp := w.timing.brp } := by
  have hf : table.find? (fun v => v.bitrate == w.bitrate) = some w := by
    induction table with
    | nil => cases hw
    | cons a l ih =>
      simp only [List.map_cons, List.nodup_cons, List.mem_map, not_exists, not_and] at hn
      by_cases ha : a.bitrate = w.bitrate
      · rcases List.mem_cons.1 hw with rfl | hw
        · simp
        · exact absurd ha.symm (hn.1 w hw)
      · rcases List.mem_cons.1 hw with rfl | hw
        · exact absurd rfl ha
        · rw [List.find?_cons_of_neg (by simpa using ha)]
          exact ih hn.2 hw
  simp [lookupTiming, hf]

/-- The lookup of a bitrate that is no key finds nothing. -/
theorem lookupTiming_of_not_key {table : List TimingRow} {bitrate : Word} (h : ∀ w ∈ table, w.bitrate ≠ bitrate) :
    lookupTiming table bitrate = none := by
  have hf : table.find? (fun v => v.bitrate == bitrate) = none := by simpa using h
  simp [lookupTiming, hf]

/-- What the lookup finds comes from a row of that key. -/
theorem lookupTiming_eq_some {table : List TimingRow} {bitrate : Word} {t : BitTiming}
    (h : lookupTiming table bitrate = some t) :
    ∃ w ∈ table, w.bitrate = bitrate ∧
      t = { propSeg := 1, phaseSeg1 := w.timing.phaseSeg1, phaseSeg2 := w.timing.phaseSeg2, sjw := 1,
            brp := w.timing.brp } := by
  unfold lookupTiming at h
  split at h
  · rename_i w hw
    cases h
    exact ⟨w, List.mem_of_find?_eq_some hw, by simpa using List.find?_some hw, rfl⟩
  · cases h

/-- The bytes of the payload, in order. -/
theorem timingPayload_eq (t : BitTiming) :
    timingPayload t =
      [byteOf t.propSeg 0, byteOf t.propSeg 1, byteOf t.propSeg 2, byteOf t.propSeg 3,
       byteOf t.phaseSeg1 0, byteOf t.phaseSeg1 1, byteOf t.phaseSeg1 2, byteOf t.phaseSeg1 3,
       byteOf t.phaseSeg2 0, byteOf t.phaseSeg2 1, byteOf t.phaseSeg2 2, byteOf t.phaseSeg2 3,
       byteOf t.sjw 0, byteOf t.sjw 1, byteOf t.sjw 2, byteOf t.sjw 3,
       byteOf t.brp 0, byteOf t.brp 1, byteOf t.brp 2, byteOf t.brp 3] := by
  simp [timingPayload, timingPayloadInto, memWrite, blankBytes, List.replicate]

end Sys2Proof.Machine
end

