-- ==== Sys2Proof/Tests/Slice0.lean ====
section
/-!
SUPPORT. The model's own tests: what the checks refuse, the decoding of the spec's encodings, the spec's vectors
(95_test_vectors.md), and for every obligation with hypotheses a state and operands that meet them.
-/
namespace Sys2Proof.Tests

open Sys2Proof Sys2Proof.Machine

/-! ### Small states -/

/-- The block after reset with a request on its ports. -/
def asked (r : Request) : State := { State.reset with request := some r }

/-- The same for a written request. -/
def written (a : Asm) : State := asked (assemble a)

/-- The block after reset with a host script. -/
def scripted (l : List HostEvent) : State := { State.reset with script := l }

/-- The next state of an outcome, if it is one. -/
def nextOf : Host.Outcome State Fault Refusal → Option State
  | .next t => some t
  | .fault _ | .refused _ => none

/-- The refusal of an outcome, if it is one. -/
def refusalOf : Host.Outcome State Fault Refusal → Option Refusal
  | .refused r => some r
  | .next _ | .fault _ => none

/-- The fault of an outcome, if it is one. -/
def faultOf : Host.Outcome State Fault Refusal → Option Fault
  | .fault r => some r
  | .next _ | .refused _ => none

/-- The frame of vector V-ENC4. -/
def frameEnc4 : CanFrame :=
  { echoId := 0x12345678, canId := 0x9ABCDEF0, dlc := 8, channel := 1, flags := 0x01,
    data := #v[1, 2, 3, 4, 5, 6, 7, 8], timestampUs := 0x0A0B0C0D }

/-- The bytes of vector V-DEC9. -/
def bytesDec9 : List Byte :=
  [0xFF, 0xFF, 0xFF, 0xFF, 0x23, 0x01, 0x00, 0x80, 0x03, 0x00, 0x00, 0x00,
   0xAA, 0xBB, 0xCC, 0x00, 0x00, 0x00, 0x00, 0x00, 0x10, 0x00, 0x00, 0x00]

/-- The error frame of vector V-ED1. -/
def frameEd1 : CanFrame :=
  { canId := 0x20000040, dlc := 8, data := #v[0, 0, 0x04, 0x08, 0, 0, 5, 2] }

/-- A frame with the read bits of `frameEd1` and other unread ones. -/
def frameEd1Like : CanFrame :=
  { echoId := 9, canId := 0xFFFFFFDF, dlc := 0, channel := 1, flags := 0xFE, reserved := 7,
    data := #v[9, 0xEB, 0xE5, 0xFF, 9, 9, 5, 2], timestampUs := 9 }

/-- The frame of vector V-ED18, whose ERR flag is clear. -/
def frameEd18 : CanFrame := { canId := 0x00000040, dlc := 8 }

/-- An error frame with both bits 0x04 and 0x10 of `data[1]` (V-ED6). -/
def frameEd6 : CanFrame := { canId := 0x20000000, dlc := 8, data := #v[0, 0x14, 0, 0, 0, 0, 0, 0] }

/-- A configuration with one table row. -/
def oneRow (w : TimingRow) : Config := { timingTable := [w], maxBufLen := none }

/-- The state of `s` with a configuration. -/
def withConfig (s : State) (c : Config) : State := { s with config := c }

/-- The state of `s` with the mark set and a response read. -/
def marked (s : State) : State := { s with notErrorFrame := true, received := [.badLength] }

/-! ### What the checks refuse -/

theorem test_wf_refuses_op_below_7 : (Instr.reservedOp 6).wellFormed = false := by decide

theorem test_wf_refuses_zero_field : (Instr.reservedHigh 0 1).wellFormed = false := by decide

theorem test_asm_refuses_legal_ill : asmWellFormed (.ill 0x01) = false := by decide

theorem test_request_refuses_wrong_port : ({ cmd := 0x01, wordIn := some 0 } : Request).wellFormed = false := by decide

theorem test_request_refuses_second_port :
    ({ cmd := 0x03, wordIn := some 0, bufIn := some [] } : Request).wellFormed = false := by decide

theorem test_table_refuses_two_rows_of_one_key :
    (Config.mk [.ofSegments 1 1 1 1, .ofSegments 1 2 2 2] none).tableValid = false := by decide

theorem test_table_refuses_brp_1025 : (oneRow (.ofSegments 1 1 1 1025)).tableValid = false := by decide

theorem test_table_refuses_prop_seg_2 : (oneRow ⟨1, ⟨2, 1, 1, 1, 1⟩⟩).tableValid = false := by decide

theorem test_table_takes_the_bounds :
    (Config.mk [.ofSegments 1 1 1 1, .ofSegments 2 15 8 1024] none).tableValid = true := by decide

theorem test_decode_refuses_two_bytes : decodeTableWord 16 1 = none := by decide

/-! ### Decoding, from the bits of 30_encoding.md R55 and R56 -/

theorem test_decode_enc : decodeCmd 0b00000001#8 = .enc := by decide

theorem test_decode_dec : decodeCmd 0b00000010#8 = .dec := by decide

theorem test_decode_cls : decodeCmd 0b00000011#8 = .cls := by decide

theorem test_decode_timing : decodeCmd 0b00000100#8 = .timing := by decide

theorem test_decode_tpay : decodeCmd 0b00000101#8 = .tpay := by decide

theorem test_decode_errdec : decodeCmd 0b00000110#8 = .errdec := by decide

theorem test_decode_reserved_zero : decodeCmd 0b00000000#8 = .reservedZero := by decide

theorem test_decode_reserved_op : decodeCmd 0b00001111#8 = .reservedOp 0b1111#4 := by decide

theorem test_decode_reserved_high : decodeCmd 0b00010001#8 = .reservedHigh 0b0001#4 0b0001#4 := by decide

/-! ### The spec's vectors, each one request to a block after reset -/

/-- V-ENC4: every offset of the layout. -/
theorem test_enc4 : replyTo .default (assemble (.enc frameEnc4)) = some (.enc
    [0x78, 0x56, 0x34, 0x12, 0xF0, 0xDE, 0xBC, 0x9A, 0x08, 0x01, 0x01, 0x00,
     0x01, 0x02, 0x03, 0x04, 0x05, 0x06, 0x07, 0x08, 0x0D, 0x0C, 0x0B, 0x0A]) := by decide

/-- V-ENC6: `dlc` above 8 and `reserved` are kept. -/
theorem test_enc6 : replyTo .default (assemble (.enc
    { echoId := 0xFFFFFFFF, canId := 0x7FF, dlc := 9, channel := 2, reserved := 0x5A, timestampUs := 1 })) = some (.enc
    [0xFF, 0xFF, 0xFF, 0xFF, 0xFF, 0x07, 0x00, 0x00, 0x09, 0x02, 0x00, 0x5A,
     0x00, 0x00, 0x00, 0x00, 0x00, 0x00, 0x00, 0x00, 0x01, 0x00, 0x00, 0x00]) := by decide

/-- V-DEC9. -/
theorem test_dec9 : replyTo .default (assemble (.dec bytesDec9)) = some (.dec
    { echoId := 0xFFFFFFFF, canId := 0x80000123, dlc := 3, data := #v[0xAA, 0xBB, 0xCC, 0, 0, 0, 0, 0],
      timestampUs := 16 }) := by decide

/-- A 25-byte buffer, as in V-DEC4. -/
theorem test_dec_25_bytes : replyTo .default (assemble (.dec (bytesDec9 ++ [0]))) = some .badLength := by decide

/-- V-CL8: EFF clear and bit 11 set, not masked to 11 bits. -/
theorem test_cl8 : replyTo .default (assemble (.cls 0x00000800)) = some (.cls ⟨false, false, false, 0x00000800⟩) := by
  decide

/-- V-CL9. -/
theorem test_cl9 : replyTo .default (assemble (.cls 0x9ABCDEF0)) = some (.cls ⟨true, false, false, 0x1ABCDEF0⟩) := by
  decide

/-- V-TIM3. -/
theorem test_tim3 : replyTo .default (assemble (.timing 83333)) = some (.timing ⟨1, 12, 2, 1, 36⟩) := by decide

/-- V-TIM14: no tolerance. -/
theorem test_tim14 : replyTo .default (assemble (.timing 83334)) = some .unsupportedBitrate := by decide

/-- V-TP0. -/
theorem test_tp0 : replyTo .default (assemble (.tpay ⟨1, 12, 2, 1, 300⟩)) = some (.tpay
    [0x01, 0x00, 0x00, 0x00, 0x0C, 0x00, 0x00, 0x00, 0x02, 0x00, 0x00, 0x00,
     0x01, 0x00, 0x00, 0x00, 0x2C, 0x01, 0x00, 0x00]) := by decide

/-- V-TP11: every field out of range. -/
theorem test_tp11 : replyTo .default (assemble (.tpay ⟨0xFFFFFFFF, 16, 9, 5, 1025⟩)) = some (.tpay
    [0xFF, 0xFF, 0xFF, 0xFF, 0x10, 0x00, 0x00, 0x00, 0x09, 0x00, 0x00, 0x00,
     0x05, 0x00, 0x00, 0x00, 0x01, 0x04, 0x00, 0x00]) := by decide

/-- V-ED16. -/
theorem test_ed16 : replyTo .default (assemble (.errdec
    { canId := 0xE0000060, dlc := 8, flags := 0x01, data := #v[0, 0x10, 0x1E, 0x08, 0, 0, 0x80, 0x7F] })) =
    some (.errdec ⟨0x3FD, 128, 127⟩) := by decide

/-- V-ED15: every unread bit of `data[1]`, `data[2]`, `data[3]` and `flags`. -/
theorem test_ed15 : replyTo .default (assemble (.errdec
    { canId := 0x20000000, dlc := 8, flags := 0xFE, data := #v[0, 0xEB, 0xE1, 0xF7, 0, 0, 0, 0] })) =
    some (.errdec ⟨0, 0, 0⟩) := by decide

/-- V-ILL3. -/
theorem test_ill3 : replyTo .default (assemble (.ill 0x0F)) = some .illegalOp := by decide

/-- V-ILL7: ILLEGAL_OP and not BAD_LENGTH. -/
theorem test_ill7 : replyTo .default { cmd := 0x12, bufIn := some (blankBytes 23) } = some .illegalOp := by decide

/-! ### A witness for the hypotheses of every obligation that has some -/

theorem witness_DecodeOfEncodeIsTheInstruction :
    Instr.errdec.wellFormed = true ∧ (Instr.reservedOp 7).wellFormed = true ∧
      (Instr.reservedHigh 1 0).wellFormed = true := by decide

theorem witness_SixCommandsAreLegal :
    (decodeCmd 0x00).isReserved = true ∧ (decodeCmd 0x07).isReserved = true ∧ (decodeCmd 0x10).isReserved = true := by
  decide

/-- A step with each of the three outcomes of `exec`. -/
theorem witness_StepRunsTheDecodedInstruction :
    (written (.cls 5)).resetArrives = false ∧
    (nextOf (exec .cls (written (.cls 5)))).isSome = true ∧
    refusalOf (exec (decodeCmd 3) (asked { cmd := 3 })) = some (.noOperand .wordIn) ∧
    faultOf (exec (decodeCmd 6) (written (.errdec frameEd18))) = some .notErrorFrame := by decide

theorem witness_PlacedWordIsPerformedNext :
    decodeTableWord 8 1 = some .enc ∧ decodeTableWord 8 255 = some (.reservedHigh 15 15) := by decide

theorem witness_HostMovesBetweenTransactions :
    (scripted [.issue { cmd := 0 }]).request = none ∧ (scripted [.read]).script = .read :: [] ∧
    (scripted [.reset]).script = .reset :: [] ∧ (scripted []).response = none := by decide

theorem witness_EncWritesTheWireImage : (written (.enc frameEnc4)).frameIn = some frameEnc4 := by decide

theorem witness_EncNeverFails :
    (nextOf (exec .enc (written (.enc frameEnc4)))).isSome = true ∧ (written (.enc frameEnc4)).frameIn.isSome = true := by
  decide

theorem witness_EncWritesEveryOffset : (blankBytes 24).length = 24 ∧ bytesDec9.length = 24 := by decide

theorem witness_FrameBufferHasItsAddressMap :
    (written (.enc frameEnc4)).frameIn = some frameEnc4 ∧ (written (.dec bytesDec9)).bufIn = some bytesDec9 ∧
    (written (.dec bytesDec9)).config.bufTooLong 24 = false ∧ bytesDec9.length = 24 := by decide

/-- Lengths 0, 23, 24 and 25. -/
theorem witness_DecReadsTheWireImage :
    (written (.dec bytesDec9)).bufIn = some bytesDec9 ∧ bytesDec9.length = 24 ∧
    (written (.dec [])).bufIn = some [] ∧ (written (.dec (blankBytes 23))).bufIn = some (blankBytes 23) ∧
    (written (.dec (blankBytes 25))).bufIn = some (blankBytes 25) ∧
    ∀ n ∈ [0, 23, 24, 25], State.reset.config.bufTooLong n = false := by decide

theorem witness_DecBadLengthExactlyWhenNot24 :
    (written (.dec bytesDec9)).bufIn = some bytesDec9 ∧ (written (.dec [])).bufIn = some [] ∧
    (written (.dec [])).config.bufTooLong 0 = false := by decide

theorem witness_DecChecksOnlyTheLength :
    (written (.dec bytesDec9)).bufIn = some bytesDec9 ∧ (written (.dec bytesDec9)).config.bufTooLong 24 = false ∧
    bytesDec9.length = 24 := by decide

/-- One byte above the bound. -/
theorem witness_DecRefusesAboveMaxBufLen :
    (withConfig (written (.dec (blankBytes 25))) ⟨[], some 24⟩).bufIn = some (blankBytes 25) ∧
    (24 : Nat) < (blankBytes 25).length := by decide

theorem witness_EncAndDecAreInverse :
    (written (.enc frameEnc4)).frameIn = some frameEnc4 ∧
    (written (.dec (encodeFrame frameEnc4))).bufIn = some (encodeFrame frameEnc4) ∧
    (written (.dec bytesDec9)).bufIn = some bytesDec9 ∧ bytesDec9.length = 24 ∧
    State.reset.config.bufTooLong 24 = false ∧
    (written (.enc (decodeFrame bytesDec9))).frameIn = some (decodeFrame bytesDec9) := by decide

theorem witness_ClassComputesFlagsAndId : (written (.cls 0xFFFFFFFF)).wordIn = some 0xFFFFFFFF := by decide

theorem witness_ClassSplitsTheWord : (written (.cls 0x9ABCDEF0)).wordIn = some 0x9ABCDEF0 := by decide

theorem witness_FramePredicatesAreClass : (written (.cls frameEnc4.canId)).wordIn = some frameEnc4.canId := by decide

/-- A key, and no key. -/
theorem witness_TimingAnswersWithTheRow :
    (written (.timing 1000000)).wordIn = some 1000000 ∧ (written (.timing 0)).wordIn = some 0 ∧
    State.reset.config.tableValid = true ∧
    TimingRow.ofSegments 1000000 11 2 3 ∈ State.reset.config.timingTable ∧
    ∀ w ∈ State.reset.config.timingTable, w.bitrate ≠ 0 := by decide

theorem witness_DefaultTableHasTheTenRows :
    ∀ w ∈ (written (.timing 0)).config.timingTable, (written (.timing w.bitrate)).wordIn = some w.bitrate := by decide

theorem witness_TimingMatchesKeysExactly :
    (written (.timing 10000)).wordIn = some 10000 ∧ (written (.timing 9999)).wordIn = some 9999 ∧
    State.reset.config.tableValid = true := by decide

theorem witness_TimingResultsAreInRange :
    (nextOf (exec .timing (written (.timing 800000)))).bind State.response = some (.timing ⟨1, 11, 2, 1, 4⟩) ∧
    (written (.timing 800000)).config.timingTable = State.reset.config.timingTable := by decide

/-- Every clause, one past its bound. -/
theorem witness_TimingRefusesABrokenTable :
    (withConfig (written (.timing 7)) ⟨[.ofSegments 1 1 1 1, .ofSegments 1 2 2 2], none⟩).wordIn = some 7 ∧
    ¬ ([TimingRow.ofSegments 1 1 1 1, .ofSegments 1 2 2 2].map TimingRow.bitrate).Nodup ∧
    (⟨2, 1, 1, 1, 1⟩ : BitTiming).propSeg ≠ 1 ∧ (⟨1, 1, 1, 2, 1⟩ : BitTiming).sjw ≠ 1 ∧
    (⟨1, 0, 1, 1, 1⟩ : BitTiming).phaseSeg1.toNat < 1 ∧ 15 < (⟨1, 16, 1, 1, 1⟩ : BitTiming).phaseSeg1.toNat ∧
    (⟨1, 1, 0, 1, 1⟩ : BitTiming).phaseSeg2.toNat < 1 ∧ 8 < (⟨1, 1, 9, 1, 1⟩ : BitTiming).phaseSeg2.toNat ∧
    (⟨1, 1, 1, 1, 0⟩ : BitTiming).brp.toNat < 1 ∧ 1024 < (⟨1, 1, 1, 1, 1025⟩ : BitTiming).brp.toNat := by decide

theorem witness_TpayWritesThePayload :
    (written (.tpay ⟨0xFFFFFFFF, 16, 9, 5, 1025⟩)).timingIn = some ⟨0xFFFFFFFF, 16, 9, 5, 1025⟩ := by decide

theorem witness_PayloadReadsBack :
    timingPayload ⟨1, 12, 2, 1, 300⟩ = timingPayload { propSeg := 1, phaseSeg1 := 12, phaseSeg2 := 2, sjw := 1, brp := 300 } := by
  decide

theorem witness_TpayWritesEveryOffset : (blankBytes 20).length = 20 ∧ (bytesDec9.take 20).length = 20 := by decide

theorem witness_ErrdecReportsFlagsAndCounters :
    (written (.errdec frameEd1)).frameIn = some frameEd1 ∧ frameEd1.canId.getLsbD 29 = true := by decide

theorem witness_WarningAndPassiveAreExclusive :
    (nextOf (exec .errdec (written (.errdec frameEd6)))).bind State.response = some (.errdec ⟨0x002, 0, 0⟩) ∧
    (written (.errdec frameEd6)).frameIn = some frameEd6 ∧ frameEd6.canId.getLsbD 29 = true ∧
    frameEd6.data[1] &&& 0x04 ≠ 0 ∧ frameEd6.data[1] &&& 0x10 ≠ 0 := by decide

theorem witness_ErrdecFaultsOnNonErrorFrames :
    (written (.errdec frameEd18)).frameIn = some frameEd18 ∧ frameEd18.canId.getLsbD 29 = false ∧
    (assemble (.errdec frameEd18)).cmd = 0x06 ∧ (written (.errdec frameEd18)).resetArrives = false := by decide

/-- Two frames that differ in unread bits of every field. -/
theorem witness_ErrdecReadsOnlyItsInputs :
    (written (.errdec frameEd1)).frameIn = some frameEd1 ∧
    (written (.errdec frameEd1Like)).frameIn = some frameEd1Like ∧
    agreeOnErrdecInputs frameEd1 frameEd1Like ∧ frameEd1 ≠ frameEd1Like := by
  unfold agreeOnErrdecInputs
  decide

theorem witness_ReportIsItsFlagsAndCounters :
    ∀ n, ErrorReport.has ⟨0x211, 5, 2⟩ n = (errorReportOf frameEd1).has n := by
  intro n
  cases n <;> decide

/-- The three ways a CMD is illegal, at their bounds. -/
theorem witness_CommandIsCheckedFirst :
    (0x10#8).extractLsb' 4 4 ≠ 0#4 ∧ (0x00#8).extractLsb' 0 4 = 0#4 ∧ 7 ≤ ((0x07#8).extractLsb' 0 4).toNat ∧
    (asked { cmd := 0x10, bufIn := some (blankBytes 23) }).resetArrives = false := by decide

theorem witness_ExecChangesOnlyTheTransaction : (nextOf (exec .tpay (written (.tpay ⟨1, 1, 1, 1, 1⟩)))).isSome = true := by
  decide

/-- Two states with one value on `word_in` that differ elsewhere. -/
theorem witness_ExecReadsOnlyItsPort :
    operandPort .cls = some .wordIn ∧
    samePort (written (.cls 5)) (marked (asked { cmd := 0, wordIn := some 5, bufIn := some [] })) .wordIn ∧
    (written (.cls 5)).config = (asked { cmd := 0 }).config := by
  unfold samePort
  decide

/-- Every instruction's condition is met somewhere. -/
theorem witness_EveryInstructionCompletes :
    completes .enc (written (.enc frameEnc4)) ∧ completes .dec (written (.dec bytesDec9)) ∧
    completes .cls (written (.cls 5)) ∧ completes .timing (written (.timing 5)) ∧
    completes .tpay (written (.tpay ⟨1, 1, 1, 1, 1⟩)) ∧ completes .errdec (written (.errdec frameEd1)) ∧
    completes .reservedZero State.reset ∧ completes (.reservedOp 7) State.reset ∧
    completes (.reservedHigh 1 0) State.reset :=
  ⟨rfl, ⟨bytesDec9, rfl, rfl⟩, rfl, ⟨rfl, by decide⟩, rfl, ⟨frameEd1, rfl, by decide⟩, trivial, trivial, trivial⟩

theorem witness_StatusIsOneOfFour : (nextOf (exec .dec (written (.dec [])))).isSome = true := by decide

theorem witness_StepKeepsTheInvariant :
    Inv (written (.cls 5)) ∧ (nextOf (step (written (.cls 5)))).isSome = true :=
  ⟨⟨.inr rfl, by decide, by decide, by decide⟩, by decide⟩

theorem witness_TimingTableIsReadOnly : (nextOf (core.run 1 (written (.timing 10000)))).isSome = true := by decide

theorem witness_FaultMarkIsNeverCleared :
    (marked (written (.cls 5))).notErrorFrame = true ∧
    (nextOf (core.run 1 (marked (written (.cls 5))))).isSome = true := by decide

theorem witness_OnlyErrdecSetsTheMark :
    (nextOf (step (written (.errdec frameEd18)))).map State.notErrorFrame = some true ∧
    (written (.errdec frameEd18)).notErrorFrame = false := by decide

/-- Each of the three refusals. -/
theorem witness_StepsStopOnlyForRefusals :
    refusalOf (step (asked { cmd := 0x05 })) = some (.noOperand .timingIn) ∧
    refusalOf (step (withConfig (written (.dec (blankBytes 25))) ⟨[], some 24⟩)) = some .bufferTooLong ∧
    refusalOf (step (withConfig (written (.timing 5)) (oneRow (.ofSegments 5 16 1 1)))) = some .badTimingTable := by
  decide

theorem witness_WellFormedRequestsComplete :
    (assemble (.timing 5)).wellFormed = true ∧ (written (.timing 5)).resetArrives = false ∧
    (written (.timing 5)).config = Config.default := by decide

theorem witness_ResponseDependsOnTheRequestAlone :
    (marked (written (.cls 5))).request =
      (written (.cls 5)).request ∧
    (marked (written (.cls 5))).config =
      (written (.cls 5)).config ∧ (written (.cls 5)).resetArrives = false := by decide

/-- An error before a good request. -/
theorem witness_RequestsAreAnsweredInOrder :
    idle (scripted ([assemble (.dec []), assemble (.cls 0x7FF)].map HostEvent.issue)) ∧
    [assemble (.dec []), assemble (.cls 0x7FF)].map (replyTo Config.default) =
      [Response.badLength, .cls ⟨false, false, false, 0x7FF⟩].map some :=
  ⟨⟨rfl, rfl⟩, by decide⟩

theorem witness_ResetAbandonsTheTransaction :
    ({ written (.cls 5) with script := [.reset] } : State).request = some (assemble (.cls 5)) ∧
    ({ written (.cls 5) with script := [.reset] } : State).script = .reset :: [] := by decide

theorem witness_WrittenRequestsAreWellFormed :
    asmWellFormed (.enc frameEnc4) = true ∧ asmWellFormed (.ill 0x07) = true := by decide

end Sys2Proof.Tests
end

/-!
PROOF. What every step and every run of steps leaves unchanged in the state (10_state.md R30).
-/
namespace Sys2Proof.Machine

/-- What a step that answers a next state can have done: the host agent's turn, or the decoded instruction of the request
in flight, answered or recorded as the fault NotErrorFrame (60_exceptions.md R98, R103). -/
theorem step_eq_next {s t : State} (h : step s = .next t) :
    ((s.request = none ∨ s.resetArrives = true) ∧ t = s.hostTurn) ∨
      ∃ r, s.request = some r ∧ s.resetArrives = false ∧
        (exec (decodeCmd r.cmd) s = .next t ∨
          (exec (decodeCmd r.cmd) s = .fault .notErrorFrame ∧ t = s.recordFault)) := by
  rcases step_cases s with ⟨hturn, hs⟩ | ⟨r, hr, hreset, hs⟩
  · rw [hs] at h
    cases h
    exact .inl ⟨hturn, rfl⟩
  · rw [hs] at h
    exact .inr ⟨r, hr, hreset, settle_eq_next h⟩

/-- A property that every step keeps holds at the end of every run from a state that has it. -/
theorem run_preserves {P : State → Prop} (hstep : ∀ s t : State, P s → step s = .next t → P t)
    {n : Nat} {s t : State} (hs : P s) (h : core.run n s = .next t) : P t := by
  induction n generalizing s with
  | zero => cases h; exact hs
  | succ n ih =>
    obtain ⟨u, hu, hrun⟩ := run_succ_eq_next h
    exact ih (hstep s u hs hu) hrun

/-- No instruction writes the configuration. -/
theorem exec_config {i : Instr} {s t : State} (h : exec i s = .next t) : t.config = s.config := by
  obtain ⟨x, rfl, -⟩ := exec_eq_next h
  exact s.answer_config x

/-- Neither the block nor the host agent writes the configuration. -/
theorem step_config {s t : State} (h : step s = .next t) : t.config = s.config := by
  rcases step_eq_next h with ⟨-, rfl⟩ | ⟨r, -, -, hexec | ⟨-, rfl⟩⟩
  · exact s.hostTurn_frame.1
  · exact exec_config hexec
  · exact s.recordFault_config

theorem run_config {n : Nat} {s t : State} (h : core.run n s = .next t) : t.config = s.config :=
  run_preserves (P := fun u => u.config = s.config) (fun _ _ hu hstep => (step_config hstep).trans hu) rfl h

/-- Settles O41: each step keeps the configuration, so a run of any length does, and reset does not write it. -/
theorem timingTableIsReadOnly : Obligations.TimingTableIsReadOnly :=
  ⟨fun _ _ _ h => run_config h, State.applyReset_config, rfl⟩

end Sys2Proof.Machine

/-!
PROOF. The address map of the frame buffer (20_memory.md R36, R37, R39): the bytes ENC answers with and the buffer DEC
reads hold the frame at the same offsets.
-/
namespace Sys2Proof.Machine

/-- ENC answers a frame with its wire image, and nothing else changes (40_frame_codec.md R68). -/
theorem exec_enc_of_frame {s : State} {f : CanFrame} (h : s.frameIn = some f) :
    exec .enc s = .next (s.answer (.enc (encodeFrame f))) :=
  execEnc_of_frame h

/-- DEC answers a 24-byte buffer with the frame read from it, and nothing else changes (R72). -/
theorem exec_dec_of_frameBuffer {s : State} {FB : List Byte} (h : s.bufIn = some FB)
    (hmax : s.config.bufTooLong 24 = false) (hlen : FB.length = 24) :
    exec .dec s = .next (s.answer (.dec (decodeFrame FB))) := by
  calc exec .dec s
    _ = execDec s := rfl
    _ = .next (s.answer (.dec (decodeFrame FB))) := by simp [execDec_of_buffer h, hlen, hmax]

/-- At an offset inside a byte sequence the default of `getD` is not used. -/
theorem getElem?_eq_some_getD {B : List Byte} {i : Nat} (h : i < B.length) : B[i]? = some (B.getD i 0) := by
  rw [List.getElem?_eq_getElem h, List.getD_eq_getElem B 0 h]

/-- Inside a byte sequence, the word `MemRead` gives is stored there little-endian (R39). -/
theorem getElem?_eq_byteOf_memReadWord {B : List Byte} {off k : Nat} (hk : k < 4) (hB : off + 4 ≤ B.length) :
    B[off + k]? = some (byteOf (memReadWord B off) k) := by
  rw [byteOf_memReadWord B off k hk]
  exact getElem?_eq_some_getD (by omega)

theorem holdsFrame_encodeFrame (f : CanFrame) : holdsFrame (encodeFrame f) f := by
  refine ⟨encodeFrame_length f, ?echoId, ?canId, ?dlc, ?channel, ?flags, ?reserved, ?data, ?timestampUs⟩
  all_goals rw [encodeFrame_eq]
  case dlc | channel | flags | reserved => rfl
  case echoId | canId | timestampUs => intro k hk; interval_cases k <;> rfl
  case data => intro i hi; interval_cases i <;> rfl

theorem holdsFrame_decodeFrame {FB : List Byte} (hlen : FB.length = 24) : holdsFrame FB (decodeFrame FB) := by
  refine ⟨hlen, ?echoId, ?canId, ?dlc, ?channel, ?flags, ?reserved, ?data, ?timestampUs⟩
  case dlc | channel | flags | reserved => exact getElem?_eq_some_getD (by omega)
  case echoId | canId | timestampUs => exact fun k hk => getElem?_eq_byteOf_memReadWord hk (by omega)
  case data =>
    intro i hi
    rw [getElem?_eq_some_getD (by omega)]
    interval_cases i <;> rfl

/-- Settles O11: the wire image of a frame holds it, and a 24-byte buffer holds the frame read from it. -/
theorem frameBufferHasItsAddressMap : Obligations.FrameBufferHasItsAddressMap :=
  ⟨fun _ f h => ⟨encodeFrame f, exec_enc_of_frame h, holdsFrame_encodeFrame f⟩,
    fun _ FB h hmax hlen => ⟨decodeFrame FB, exec_dec_of_frameBuffer h hmax hlen, holdsFrame_decodeFrame hlen⟩⟩

end Sys2Proof.Machine

/-!
PROOF. The frame codec's operations on the values of their port: ENC (40_frame_codec.md section 1), DEC (section 2) and
CLASS (section 4).
-/
namespace Sys2Proof.Machine

/-- Every instruction but ERRDEC raises no fault. -/
theorem exec_ne_fault {i : Instr} (hi : i ≠ .errdec) (s : State) (e : Fault) : exec i s ≠ .fault e :=
  fun h => hi (exec_eq_fault h).1

/-! ### ENC -/

/-- Settles O8: the wire image is the 24 bytes of the pseudocode. -/
theorem encWritesTheWireImage : Obligations.EncWritesTheWireImage := by
  refine ⟨decodeCmd_enc, fun s f h => ?_⟩
  rw [exec_enc_of_frame h, encodeFrame_eq]
  rfl

/-- Every response of ENC has status OK (R70). -/
theorem exec_enc_status {s t : State} (h : exec .enc s = .next t) :
    ∃ x, t.response = some x ∧ x.status = some .ok := by
  obtain ⟨x, rfl, f, -, rfl⟩ := exec_eq_next h
  exact ⟨.enc (encodeFrame f), rfl, rfl⟩

/-- Settles O9: no fault, no status but OK, and an answer to every frame. -/
theorem encNeverFails : Obligations.EncNeverFails :=
  fun s => ⟨exec_ne_fault (by decide) s, fun _ h => exec_enc_status h, fun _ h => ⟨_, exec_enc_of_frame h⟩⟩

/-! ### DEC -/

/-- DEC answers a buffer of any other length than 24 with BAD_LENGTH, and nothing else changes (R72, R73). -/
theorem exec_dec_of_length_ne {s : State} {B : List Byte} (h : s.bufIn = some B)
    (hmax : s.config.bufTooLong B.length = false) (hlen : B.length ≠ 24) :
    exec .dec s = .next (s.answer .badLength) := by
  calc exec .dec s
    _ = execDec s := rfl
    _ = .next (s.answer .badLength) := by simp [execDec_of_buffer h, hlen, hmax]

/-- Each `u32` field of the decoded frame is the little-endian sum of the four bytes at its offset (R72). -/
theorem decodeFrame_words_toNat (B : List Byte) {v : Word} {off : Nat}
    (h : (v, off) ∈ [((decodeFrame B).echoId, 0), ((decodeFrame B).canId, 4), ((decodeFrame B).timestampUs, 20)]) :
    v.toNat = (B.getD off 0).toNat + (B.getD (off + 1) 0).toNat * 2 ^ 8 +
      (B.getD (off + 2) 0).toNat * 2 ^ 16 + (B.getD (off + 3) 0).toNat * 2 ^ 24 := by
  have hv : v = memReadWord B off := by
    simp only [List.mem_cons, Prod.mk.injEq, List.not_mem_nil, or_false] at h
    rcases h with ⟨rfl, rfl⟩ | ⟨rfl, rfl⟩ | ⟨rfl, rfl⟩ <;> rfl
  rw [hv, memReadWord_toNat]

/-- Settles O12: below or above 24 bytes the answer is BAD_LENGTH; at 24 it is the frame the buffer holds. -/
theorem decReadsTheWireImage : Obligations.DecReadsTheWireImage := by
  refine ⟨decodeCmd_dec, fun s B h hmax => ⟨exec_dec_of_length_ne h hmax, fun hlen => ?_⟩⟩
  obtain ⟨-, -, -, hdlc, hchannel, hflags, hreserved, hdata, -⟩ := holdsFrame_decodeFrame hlen
  exact ⟨decodeFrame B, exec_dec_of_frameBuffer h (hlen ▸ hmax) hlen,
    fun _ _ hv => decodeFrame_words_toNat B hv, hdlc, hchannel, hflags, hreserved, hdata⟩

/-- DEC's answer to a buffer is BAD_LENGTH exactly when the length is not 24 (R73): at 24 it carries a frame. -/
theorem exec_dec_eq_badLength_iff {s : State} {B : List Byte} (h : s.bufIn = some B)
    (hmax : s.config.bufTooLong B.length = false) :
    exec .dec s = .next (s.answer .badLength) ↔ B.length ≠ 24 := by
  refine ⟨fun hbad hlen => ?_, exec_dec_of_length_ne h hmax⟩
  rw [exec_dec_of_frameBuffer h (hlen ▸ hmax) hlen] at hbad
  cases hbad

/-- DEC answers every buffer that is not above a configured MAX_BUF_LEN (R73). -/
theorem exists_exec_dec_eq_next {s : State} {B : List Byte} (h : s.bufIn = some B)
    (hmax : s.config.bufTooLong B.length = false) : ∃ t, exec .dec s = .next t := by
  by_cases hlen : B.length = 24
  · exact ⟨_, exec_dec_of_frameBuffer h (hlen ▸ hmax) hlen⟩
  · exact ⟨_, exec_dec_of_length_ne h hmax hlen⟩

/-- Settles O13: the answer to a 24-byte buffer is a frame, to any other BAD_LENGTH, which has no result port. -/
theorem decBadLengthExactlyWhenNot24 : Obligations.DecBadLengthExactlyWhenNot24 :=
  fun s _ h hmax =>
    ⟨exec_dec_eq_badLength_iff h hmax, exists_exec_dec_eq_next h hmax, exec_ne_fault (by decide) s, rfl⟩

/-- Settles O14: DEC's answer to a 24-byte buffer is the frame read from it, whatever the bytes. -/
theorem decChecksOnlyTheLength : Obligations.DecChecksOnlyTheLength :=
  fun _ B h hmax hlen => ⟨decodeFrame B, exec_dec_of_frameBuffer h hmax hlen, rfl⟩

/-! ### CLASS -/

/-- CLASS answers a word with its record, and nothing else changes (R78). -/
theorem exec_cls_of_word {s : State} {id : Word} (h : s.wordIn = some id) :
    exec .cls s = .next (s.answer (.cls (classify id))) :=
  execCls_of_word h

/-- A bit test asks whether the masked value is not 0 (42_error_decode.md R127). -/
theorem bitsSet_eq_decide {w : Nat} (v mask : BitVec w) : bitsSet v mask = decide (v &&& mask ≠ 0) := by
  rw [Bool.eq_iff_iff, decide_eq_true_iff]
  exact bne_iff_ne

/-- The record CLASS computes: three masked tests and the masked id (R78, R80). -/
theorem classify_eq (id : Word) :
    classify id =
      { ext := decide (id &&& 0x80000000 ≠ 0), rtr := decide (id &&& 0x40000000 ≠ 0),
        err := decide (id &&& 0x20000000 ≠ 0), arbId := id &&& 0x1FFFFFFF } := by
  rw [classify, bitsSet_eq_decide, bitsSet_eq_decide, bitsSet_eq_decide]
  rfl

/-- Settles O17: the masks of CLASS are those of R29. -/
theorem classComputesFlagsAndId : Obligations.ClassComputesFlagsAndId := by
  refine ⟨decodeCmd_cls, fun s id h => ?_⟩
  rw [exec_cls_of_word h, classify_eq]
  rfl

end Sys2Proof.Machine

/-!
PROOF. TIMING (41_bit_timing.md section 1): with a table R86 allows, the answer to each key and to every other bitrate.
-/
namespace Sys2Proof.Machine

/-- A valid row's timing has the constants `prop_seg` = `sjw` = 1 of the answer TIMING builds from it (R82, R86). -/
theorem timing_eq_of_valid {w : TimingRow} (h : w.valid = true) :
    w.timing = { propSeg := 1, phaseSeg1 := w.timing.phaseSeg1, phaseSeg2 := w.timing.phaseSeg2, sjw := 1,
                 brp := w.timing.brp } := by
  obtain ⟨_, _, _, _, _, _⟩ := w
  simp only [TimingRow.valid, Bool.and_eq_true, decide_eq_true_eq] at h
  obtain ⟨⟨rfl, rfl⟩, -⟩ := h
  rfl

/-- With a valid table TIMING answers a key with its row's timing, and nothing else changes (R82). -/
theorem exec_timing_of_key {s : State} {w : TimingRow} (h : s.wordIn = some w.bitrate)
    (hvalid : s.config.tableValid = true) (hw : w ∈ s.config.timingTable) :
    exec .timing s = .next (s.answer (.timing w.timing)) := by
  obtain ⟨hrows, hkeys⟩ := (tableValid_iff s.config).1 hvalid
  have hlookup : lookupTiming s.config.timingTable w.bitrate = some w.timing :=
    (lookupTiming_of_mem hkeys hw).trans (congrArg some (timing_eq_of_valid (hrows w hw)).symm)
  calc exec .timing s
    _ = execTiming s := rfl
    _ = .next (s.answer (.timing w.timing)) := by simp [execTiming_of_word h, hvalid, hlookup]

/-- With a valid table TIMING answers any other bitrate with UNSUPPORTED_BITRATE, and nothing else changes (R82). -/
theorem exec_timing_of_not_key {s : State} {bitrate : Word} (h : s.wordIn = some bitrate)
    (hvalid : s.config.tableValid = true) (hkey : ∀ w ∈ s.config.timingTable, w.bitrate ≠ bitrate) :
    exec .timing s = .next (s.answer .unsupportedBitrate) := by
  calc exec .timing s
    _ = execTiming s := rfl
    _ = .next (s.answer .unsupportedBitrate) := by
      simp [execTiming_of_word h, hvalid, lookupTiming_of_not_key hkey]

/-- Settles O20: the row of a key is the only one, and its constants are those of the answer. -/
theorem timingAnswersWithTheRow : Obligations.TimingAnswersWithTheRow := by
  refine ⟨decodeCmd_timing, fun s bitrate h hvalid => ⟨fun w hw hbitrate => ?_, exec_timing_of_not_key h hvalid⟩⟩
  subst hbitrate
  rw [← timing_eq_of_valid (((tableValid_iff s.config).1 hvalid).1 w hw)]
  exact exec_timing_of_key h hvalid hw

/-- A bitrate is among the keys exactly when a row holds it; the two cases of R84. -/
theorem key_cases (table : List TimingRow) (bitrate : Word) :
    (bitrate ∈ table.map TimingRow.bitrate ∧ ∃ w ∈ table, w.bitrate = bitrate) ∨
      (bitrate ∉ table.map TimingRow.bitrate ∧ ∀ w ∈ table, w.bitrate ≠ bitrate) := by
  by_cases hkey : bitrate ∈ table.map TimingRow.bitrate
  · exact .inl ⟨hkey, List.mem_map.1 hkey⟩
  · exact .inr ⟨hkey, fun _ hw hbitrate => hkey (List.mem_map.2 ⟨_, hw, hbitrate⟩)⟩

/-- Settles O22: a key and any other bitrate are answered differently, so each answer says which of the two it was. -/
theorem timingMatchesKeysExactly : Obligations.TimingMatchesKeysExactly := by
  intro s bitrate h hvalid
  rcases key_cases s.config.timingTable bitrate with ⟨hkey, w, hw, rfl⟩ | ⟨hkey, hne⟩
  · have hexec := exec_timing_of_key h hvalid hw
    refine ⟨iff_of_true ⟨w.timing, hexec⟩ hkey, iff_of_false (fun hunsupported => ?_) (not_not_intro hkey)⟩
    cases hexec.symm.trans hunsupported
  · have hexec := exec_timing_of_not_key h hvalid hne
    refine ⟨iff_of_false (fun ⟨_, hok⟩ => ?_) hkey, iff_of_true hexec hkey⟩
    cases hexec.symm.trans hok

/-- The table after reset is valid, whatever else is configured (R83, R86). -/
theorem tableValid_of_defaultTimingTable {c : Config} (h : c.timingTable = Config.defaultTimingTable) :
    c.tableValid = true := by
  rw [Config.tableValid, h]
  decide

/-- Settles O21: the default table is valid, so its keys do not repeat and each is answered with its row. -/
theorem defaultTableHasTheTenRows : Obligations.DefaultTableHasTheTenRows :=
  ⟨rfl, ((tableValid_iff Config.default).1 (tableValid_of_defaultTimingTable rfl)).2,
    fun _ htable _ hw h => exec_timing_of_key h (tableValid_of_defaultTimingTable htable) hw⟩

end Sys2Proof.Machine

/-!
PROOF. ERRDEC of an error frame (42_error_decode.md section 1): each flag of the report is set exactly on its row's
condition.
-/
namespace Sys2Proof.Machine

/-- ERRDEC answers an error frame with its report, and nothing else changes (R91). -/
theorem exec_errdec_of_errorFrame {s : State} {f : CanFrame} (h : s.frameIn = some f)
    (herr : f.canId.getLsbD 29 = true) : exec .errdec s = .next (s.answer (.errdec (errorReportOf f))) := by
  calc exec .errdec s
    _ = execErrdec s := rfl
    _ = .next (s.answer (.errdec (errorReportOf f))) := by simp [execErrdec_of_frame h, CanFrame.isErrorFrame, herr]

/-- The condition column of R93. -/
def flagCondition (f : CanFrame) : ErrorFlag → Prop
  | .busOff => f.canId &&& 0x40 ≠ 0
  | .rxTxWarning => f.data[1] &&& 0x04 ≠ 0
  | .rxTxPassive => f.data[1] &&& 0x10 ≠ 0 ∧ f.data[1] &&& 0x04 = 0
  | .overload => f.flags &&& 0x01 ≠ 0
  | .stuff => f.data[2] &&& 0x04 ≠ 0
  | .form => f.data[2] &&& 0x02 ≠ 0
  | .ack => f.canId &&& 0x20 ≠ 0
  | .bitRecessive => f.data[2] &&& 0x10 ≠ 0
  | .bitDominant => f.data[2] &&& 0x08 ≠ 0
  | .crc => f.data[3] &&& 0x08 ≠ 0

/-- The report has a flag exactly when the flag's row holds: of the writes of R91 only that row's touches its bit. -/
theorem errorReportOf_has_iff (f : CanFrame) (n : ErrorFlag) :
    (errorReportOf f).has n = true ↔ flagCondition f n := by
  simp only [ErrorReport.has, errorReportOf, errorFlagsOf, setFlagIf_getLsbD, setWarningOrPassive_getLsbD]
  cases n <;> simp [flagCondition, bitsSet_eq_decide]

/-- No report ERRDEC computes has both WARNING and PASSIVE: their rows ask for different values of one bit of `data[1]`
(R94). -/
theorem errorReportOf_not_warning_and_passive (f : CanFrame) :
    ¬ ((errorReportOf f).has .rxTxWarning = true ∧ (errorReportOf f).has .rxTxPassive = true) := by
  rw [errorReportOf_has_iff, errorReportOf_has_iff]
  exact fun ⟨hwarning, _, hclear⟩ => hwarning hclear

/-- Settles O28: ERRDEC answers with the report of the frame, and each of its flags is on exactly under its row. -/
theorem errdecReportsFlagsAndCounters : Obligations.ErrdecReportsFlagsAndCounters := by
  refine ⟨decodeCmd_errdec, fun s f h herr => ⟨errorReportOf f, exec_errdec_of_errorFrame h herr, ?_⟩⟩
  have hflag := errorReportOf_has_iff f
  exact ⟨hflag .busOff, hflag .rxTxWarning, hflag .rxTxPassive, hflag .overload, hflag .stuff, hflag .form,
    hflag .ack, hflag .bitRecessive, hflag .bitDominant, hflag .crc, rfl, rfl⟩

/-- Settles O29: whatever ERRDEC answers is the report of a frame, whose rows for the two flags exclude each other. -/
theorem warningAndPassiveAreExclusive : Obligations.WarningAndPassiveAreExclusive := by
  refine ⟨fun s t e hexec hresponse => ?_, fun s f h herr hwarning _ => ?_⟩
  · obtain ⟨x, rfl, f, -, -, rfl⟩ := exec_eq_next hexec
    cases hresponse
    exact errorReportOf_not_warning_and_passive f
  · have hhas : (errorReportOf f).has .rxTxWarning = true := (errorReportOf_has_iff f .rxTxWarning).2 hwarning
    refine ⟨errorReportOf f, exec_errdec_of_errorFrame h herr, hhas, ?_⟩
    exact Bool.eq_false_iff.2 fun hpassive => errorReportOf_not_warning_and_passive f ⟨hhas, hpassive⟩

end Sys2Proof.Machine

/-!
PROOF. The command decoder and the encoder are inverse (30_encoding.md R55, R56, R58), and six of the 256 CMD values are
operations.
-/
namespace Sys2Proof

/-! ### The two fields of CMD -/

@[simp] theorem zeroField_append (zero op : BitVec 4) : zeroField (zero ++ op) = zero :=
  BitVec.extractLsb'_append_eq_left

@[simp] theorem opField_append (zero op : BitVec 4) : opField (zero ++ op) = op :=
  BitVec.extractLsb'_append_eq_right

/-- CMD is the number its two fields make (R55). -/
theorem toNat_eq_fields (cmd : Byte) : cmd.toNat = 16 * (zeroField cmd).toNat + (opField cmd).toNat := by
  have h := cmd.isLt
  simp only [zeroField, opField, BitVec.extractLsb'_toNat, Nat.shiftRight_eq_div_pow]
  omega

theorem zeroField_append_opField (cmd : Byte) : zeroField cmd ++ opField cmd = cmd := by
  apply BitVec.eq_of_toNat_eq
  rw [toNat_eq_fields, zeroField_append, opField_append, ← toNat_eq_fields]

/-! ### The three ranges of the opcode map -/

/-- The third reserved row (R59). -/
theorem decodeCmd_of_zeroField_ne {cmd : Byte} (h : zeroField cmd ≠ 0#4) :
    decodeCmd cmd = .reservedHigh (zeroField cmd) (opField cmd) := by
  simp [decodeCmd, h]

/-- The second reserved row (R59). -/
theorem decodeCmd_of_seven_le {cmd : Byte} (hzero : zeroField cmd = 0#4) (hop : 7 ≤ (opField cmd).toNat) :
    decodeCmd cmd = .reservedOp (opField cmd) := by
  simp only [decodeCmd, hzero, ne_eq, not_true_eq_false, ↓reduceIte]
  split
  case h_8 => rfl
  all_goals omega

/-- Every CMD value is in one of the two wide reserved rows, or below 7 (R56, R58). -/
theorem decodeCmd_cases (cmd : Byte) :
    (zeroField cmd ≠ 0#4 ∧ decodeCmd cmd = .reservedHigh (zeroField cmd) (opField cmd)) ∨
      (zeroField cmd = 0#4 ∧ 7 ≤ (opField cmd).toNat ∧ decodeCmd cmd = .reservedOp (opField cmd)) ∨
      cmd ∈ [0x00#8, 0x01#8, 0x02#8, 0x03#8, 0x04#8, 0x05#8, 0x06#8] := by
  by_cases hzero : zeroField cmd = 0#4
  · by_cases hop : 7 ≤ (opField cmd).toNat
    · exact .inr (.inl ⟨hzero, hop, decodeCmd_of_seven_le hzero hop⟩)
    · have hcmd : cmd.toNat < 7 := by rw [toNat_eq_fields, hzero]; simpa using hop
      have hmem : ∀ n < 7, BitVec.ofNat 8 n ∈ [0x00#8, 0x01#8, 0x02#8, 0x03#8, 0x04#8, 0x05#8, 0x06#8] := by decide
      exact .inr (.inr (by simpa using hmem cmd.toNat hcmd))
  · exact .inl ⟨hzero, decodeCmd_of_zeroField_ne hzero⟩

/-! ### Decoding and encoding are inverse -/

theorem decodeCmd_encode {i : Instr} (h : i.wellFormed = true) : decodeCmd (encode i) = i := by
  cases i with
  | enc | dec | cls | timing | tpay | errdec | reservedZero => decide
  | reservedOp op =>
    have hop : 7 ≤ op.toNat := by simpa [Instr.wellFormed] using h
    rw [encode, decodeCmd_of_seven_le (zeroField_append _ _) (by rwa [opField_append]), opField_append]
  | reservedHigh zero op =>
    have hzero : zero ≠ 0#4 := by simpa [Instr.wellFormed] using h
    rw [encode, decodeCmd_of_zeroField_ne (by rwa [zeroField_append]), zeroField_append, opField_append]

theorem wellFormed_decodeCmd (cmd : Byte) : (decodeCmd cmd).wellFormed = true := by
  rcases decodeCmd_cases cmd with ⟨hzero, hi⟩ | ⟨-, hop, hi⟩ | hcmd
  · rw [hi]
    exact decide_eq_true hzero
  · rw [hi]
    exact decide_eq_true hop
  · revert cmd
    decide

theorem encode_decodeCmd (cmd : Byte) : encode (decodeCmd cmd) = cmd := by
  rcases decodeCmd_cases cmd with ⟨-, hi⟩ | ⟨hzero, -, hi⟩ | hcmd
  · rw [hi]
    exact zeroField_append_opField cmd
  · rw [hi, encode, ← hzero]
    exact zeroField_append_opField cmd
  · revert cmd
    decide

/-- An 8-bit table word that is a CMD byte decodes as that byte. -/
theorem decodeTableWord_toNat (cmd : Byte) : decodeTableWord 8 cmd.toNat = some (decodeCmd cmd) := by
  simp [decodeTableWord]

/-- Settles O1: each constructor's byte is in the range of its own row. -/
theorem decodeOfEncodeIsTheInstruction : Obligations.DecodeOfEncodeIsTheInstruction :=
  fun i h => ⟨decodeCmd_encode h, by rw [decodeTableWord_toNat, decodeCmd_encode h]⟩

/-- Settles O2: in each of the three ranges of CMD the decoded fields are those of the byte. -/
theorem encodeOfDecodeIsTheByte : Obligations.EncodeOfDecodeIsTheByte :=
  fun cmd => ⟨wellFormed_decodeCmd cmd, encode_decodeCmd cmd⟩

/-- Settles O3: the six rows, and one byte in each reserved range. -/
theorem tableBytesDecode : Obligations.TableBytesDecode :=
  ⟨decodeCmd_enc, decodeCmd_dec, decodeCmd_cls, decodeCmd_timing, decodeCmd_tpay, decodeCmd_errdec, by decide,
    decodeCmd_of_seven_le (by decide) (by decide), decodeCmd_of_zeroField_ne (by decide)⟩

/-! ### The legal commands -/

/-- Of the CMD values the operations are 1 to 6 (R58). -/
theorem isReserved_decodeCmd_eq_false_iff (cmd : Byte) :
    (decodeCmd cmd).isReserved = false ↔ (1 ≤ cmd.toNat ∧ cmd.toNat ≤ 6) := by
  rcases decodeCmd_cases cmd with ⟨hzero, hi⟩ | ⟨hzero, hop, hi⟩ | hcmd
  · have hpos : 0 < (zeroField cmd).toNat := Nat.pos_of_ne_zero fun h0 => hzero (BitVec.eq_of_toNat_eq h0)
    rw [hi, toNat_eq_fields]
    exact iff_of_false (by simp [Instr.isReserved]) (by omega)
  · rw [hi, toNat_eq_fields]
    exact iff_of_false (by simp [Instr.isReserved]) (by omega)
  · revert cmd
    decide

/-- Of the values below 7 only 0 is reserved, and all the 249 others are. -/
theorem countP_isReserved_decodeCmd :
    (List.range 256).countP (fun n => (decodeCmd (BitVec.ofNat 8 n)).isReserved) = 250 := by
  have hlow : (List.range 7).countP (fun n => (decodeCmd (BitVec.ofNat 8 n)).isReserved) = 1 := by decide
  have hhigh : ∀ n ∈ (List.range 249).map (7 + ·), (decodeCmd (BitVec.ofNat 8 n)).isReserved = true := by
    intro n hn
    obtain ⟨k, hk, rfl⟩ := List.mem_map.1 hn
    have hk : k < 249 := List.mem_range.1 hk
    rw [← Bool.not_eq_false, isReserved_decodeCmd_eq_false_iff, BitVec.toNat_ofNat]
    omega
  rw [show 256 = 7 + 249 from rfl, List.range_add, List.countP_append, hlow, List.countP_eq_length.2 hhigh,
    List.length_map, List.length_range]

end Sys2Proof

namespace Sys2Proof.Machine

/-- A reserved row answers ILLEGAL_OP in every state, and nothing else changes (R59, R101). -/
theorem exec_of_isReserved {i : Instr} (h : i.isReserved = true) (s : State) :
    exec i s = .next (s.answer .illegalOp) := by
  cases i with
  | reservedZero | reservedOp _ | reservedHigh _ _ => rfl
  | enc | dec | cls | timing | tpay | errdec => cases h

/-- Settles O4: the operations are the values 1 to 6, and every other value is in a reserved row. -/
theorem sixCommandsAreLegal : Obligations.SixCommandsAreLegal :=
  ⟨isReserved_decodeCmd_eq_false_iff, countP_isReserved_decodeCmd, fun _ s h => exec_of_isReserved h s⟩

/-- Settles O33: the three constructors of the reserved rows. -/
theorem reservedRowsAnswerIllegalOp : Obligations.ReservedRowsAnswerIllegalOp :=
  ⟨exec_of_isReserved rfl, fun _ => exec_of_isReserved rfl, fun _ _ => exec_of_isReserved rfl, rfl, rfl⟩

end Sys2Proof.Machine

/-!
PROOF. Writing and reading a byte sequence are inverse: ENC with DEC (40_frame_codec.md R77), TPAY with its layout
(20_memory.md R38), and neither leaves an offset of its fresh sequence unwritten (R71, 41_bit_timing.md R87).
-/
namespace Sys2Proof.Machine

/-! ### The frame buffer of a frame -/

/-- A buffer that holds a frame decodes to it. -/
theorem decodeFrame_of_holdsFrame {FB : List Byte} {f : CanFrame} (h : holdsFrame FB f) : decodeFrame FB = f := by
  obtain ⟨-, hecho, hid, hdlc, hchannel, hflags, hreserved, hdata, htime⟩ := h
  obtain ⟨echoId, canId, dlc, channel, flags, reserved, data, timestampUs⟩ := f
  simp only [decodeFrame, CanFrame.mk.injEq, List.getD_eq_getElem?_getD, hdlc, hchannel, hflags, hreserved,
    Option.getD_some, true_and]
  refine ⟨memReadWord_of_bytes hecho, memReadWord_of_bytes hid, ?_, memReadWord_of_bytes htime⟩
  ext i hi
  have hbyte := hdata i hi
  interval_cases i <;> simp [hbyte]

theorem decodeFrame_encodeFrame (f : CanFrame) : decodeFrame (encodeFrame f) = f :=
  decodeFrame_of_holdsFrame (holdsFrame_encodeFrame f)

/-- The bytes ENC writes for a decoded frame are the first 24 of the buffer it was decoded from, in order. -/
theorem encodeFrame_decodeFrame_eq_map (FB : List Byte) :
    encodeFrame (decodeFrame FB) = (List.range 24).map (FB.getD · 0) := by
  rw [encodeFrame_eq]
  simp [decodeFrame, byteOf_memReadWord, List.range, List.range.loop]

theorem encodeFrame_decodeFrame {FB : List Byte} (h : FB.length = 24) : encodeFrame (decodeFrame FB) = FB := by
  rw [encodeFrame_decodeFrame_eq_map, ← h]
  exact List.ext_getElem (by simp) fun k _ hk => by simp [hk]

/-- Settles O16: the wire image of a frame and the frame of a 24-byte buffer hold each other by one address map. -/
theorem encAndDecAreInverse : Obligations.EncAndDecAreInverse := by
  refine ⟨fun s f hf => ⟨encodeFrame f, encodeFrame_length f, exec_enc_of_frame hf, fun u hu hmax => ?_⟩,
    fun u B hlen hu hmax => ⟨decodeFrame B, exec_dec_of_frameBuffer hu hmax hlen, fun s hs => ?_⟩⟩
  · rw [exec_dec_of_frameBuffer hu hmax (encodeFrame_length f), decodeFrame_encodeFrame]
    rfl
  · rw [exec_enc_of_frame hs, encodeFrame_decodeFrame hlen]
    rfl

/-! ### Writes that cover the sequence -/

/-- Two sequences of one length with the same bytes below an offset. -/
def AgreeBelow (n : Nat) (B C : List Byte) : Prop :=
  B.length = C.length ∧ ∀ k < n, B[k]? = C[k]?

theorem AgreeBelow.zero {B C : List Byte} (h : B.length = C.length) : AgreeBelow 0 B C :=
  ⟨h, fun _ hk => absurd hk (Nat.not_lt_zero _)⟩

/-- A byte written at the first offset of doubt leaves one offset less in doubt. -/
theorem AgreeBelow.set {n : Nat} {B C : List Byte} (h : AgreeBelow n B C) (v : Byte) :
    AgreeBelow (n + 1) (B.set n v) (C.set n v) := by
  obtain ⟨hlen, hbytes⟩ := h
  refine ⟨by simpa using hlen, fun k hk => ?_⟩
  by_cases hkn : k = n
  · subst hkn
    simp [List.getElem?_set, hlen]
  · rw [List.getElem?_set_ne (Ne.symm hkn), List.getElem?_set_ne (Ne.symm hkn), hbytes k (by omega)]

theorem AgreeBelow.memWrite {n w : Nat} {B C : List Byte} (h : AgreeBelow n B C) (m : Nat) (v : BitVec w) :
    AgreeBelow (n + m) (memWrite B n m v) (memWrite C n m v) := by
  induction m with
  | zero => exact h
  | succ m ih => exact ih.set (byteOf v m)

/-- Sequences that agree below their length are equal. -/
theorem AgreeBelow.eq {n : Nat} {B C : List Byte} (h : AgreeBelow n B C) (hlen : B.length ≤ n) : B = C := by
  obtain ⟨hBC, hbytes⟩ := h
  apply List.ext_getElem? fun k => ?_
  by_cases hk : k < n
  · exact hbytes k hk
  · rw [List.getElem?_eq_none (by omega), List.getElem?_eq_none (by omega)]

theorem encodeFrameInto_length (B : List Byte) (f : CanFrame) : (encodeFrameInto B f).length = B.length := by
  simp [encodeFrameInto]

/-- ENC's writes go through the offsets 0 to 23 in order, without a gap (R68). -/
theorem AgreeBelow.encodeFrameInto {B C : List Byte} (h : AgreeBelow 0 B C) (f : CanFrame) :
    AgreeBelow 24 (encodeFrameInto B f) (encodeFrameInto C f) := by
  have hwords := (h.memWrite 4 f.echoId).memWrite 4 f.canId
  have hheader := (((hwords.set f.dlc).set f.channel).set f.flags).set f.reserved
  have hlow := (((hheader.set f.data[0]).set f.data[1]).set f.data[2]).set f.data[3]
  have hhigh := (((hlow.set f.data[4]).set f.data[5]).set f.data[6]).set f.data[7]
  unfold Machine.encodeFrameInto
  exact hhigh.memWrite 4 f.timestampUs

/-- Settles O10: after 24 writes without a gap nothing of the fresh sequence is left. -/
theorem encWritesEveryOffset : Obligations.EncWritesEveryOffset := by
  intro B C f hB hC
  have hlen : (encodeFrameInto B f).length = 24 := (encodeFrameInto_length B f).trans hB
  exact ⟨hlen, ((AgreeBelow.zero (hB.trans hC.symm)).encodeFrameInto f).eq hlen.le⟩

theorem timingPayloadInto_length (P : List Byte) (t : BitTiming) : (timingPayloadInto P t).length = P.length := by
  simp [timingPayloadInto]

/-- TPAY's writes go through the offsets 0 to 19 in order, without a gap (R87). -/
theorem AgreeBelow.timingPayloadInto {P Q : List Byte} (h : AgreeBelow 0 P Q) (t : BitTiming) :
    AgreeBelow 20 (timingPayloadInto P t) (timingPayloadInto Q t) :=
  ((((h.memWrite 4 t.propSeg).memWrite 4 t.phaseSeg1).memWrite 4 t.phaseSeg2).memWrite 4 t.sjw).memWrite 4 t.brp

/-- Settles O27: after five words without a gap nothing of the fresh sequence is left. -/
theorem tpayWritesEveryOffset : Obligations.TpayWritesEveryOffset := by
  intro P Q t hP hQ
  have hlen : (timingPayloadInto P t).length = 20 := (timingPayloadInto_length P t).trans hP
  exact ⟨hlen, ((AgreeBelow.zero (hP.trans hQ.symm)).timingPayloadInto t).eq hlen.le⟩

/-! ### The bit-timing payload -/

/-- TPAY answers a timing with its payload, and nothing else changes (R87). -/
theorem exec_tpay_of_timing {s : State} {t : BitTiming} (h : s.timingIn = some t) :
    exec .tpay s = .next (s.answer (.tpay (timingPayload t))) :=
  execTpay_of_timing h

/-- Settles O25: the payload is the 20 bytes of the pseudocode. -/
theorem tpayWritesThePayload : Obligations.TpayWritesThePayload := by
  refine ⟨decodeCmd_tpay, fun s t h => ?_⟩
  rw [exec_tpay_of_timing h, timingPayload_eq]
  rfl

/-- The payload holds the five values at the offsets of 20_memory.md R38. -/
theorem memReadWord_timingPayload (t : BitTiming) :
    memReadWord (timingPayload t) 0 = t.propSeg ∧ memReadWord (timingPayload t) 4 = t.phaseSeg1 ∧
      memReadWord (timingPayload t) 8 = t.phaseSeg2 ∧ memReadWord (timingPayload t) 12 = t.sjw ∧
      memReadWord (timingPayload t) 16 = t.brp := by
  rw [timingPayload_eq]
  refine ⟨?_, ?_, ?_, ?_, ?_⟩
  all_goals
    apply memReadWord_of_bytes
    intro k hk
    interval_cases k <;> rfl

theorem timingPayload_injective : Function.Injective timingPayload := by
  intro t u h
  obtain ⟨ht1, ht2, ht3, ht4, ht5⟩ := memReadWord_timingPayload t
  obtain ⟨hu1, hu2, hu3, hu4, hu5⟩ := memReadWord_timingPayload u
  rw [h] at ht1 ht2 ht3 ht4 ht5
  obtain ⟨_, _, _, _, _⟩ := t
  obtain ⟨_, _, _, _, _⟩ := u
  rw [BitTiming.mk.injEq]
  exact ⟨ht1.symm.trans hu1, ht2.symm.trans hu2, ht3.symm.trans hu3, ht4.symm.trans hu4, ht5.symm.trans hu5⟩

/-- Settles O26: each value is at its own offset, so equal payloads give five equal values. -/
theorem payloadReadsBack : Obligations.PayloadReadsBack :=
  ⟨memReadWord_timingPayload, fun _ _ h => timingPayload_injective h⟩

end Sys2Proof.Machine

/-!
PROOF. CLASS bit by bit (30_encoding.md R64, 40_frame_codec.md R79), the bounds of TIMING's results and of its table
(41_bit_timing.md R86), and what ERRDEC reads (42_error_decode.md R96).
-/
namespace Sys2Proof.Machine

/-! ### CLASS -/

theorem bitsSet_canEffFlag (id : Word) : bitsSet id canEffFlag = id.getLsbD 31 := bitsSet_twoPow id 31 (by decide)

theorem bitsSet_canRtrFlag (id : Word) : bitsSet id canRtrFlag = id.getLsbD 30 := bitsSet_twoPow id 30 (by decide)

theorem bitsSet_canErrFlag (id : Word) : bitsSet id canErrFlag = id.getLsbD 29 := bitsSet_twoPow id 29 (by decide)

/-- The arbitration id is bits 28:0 (R64). -/
theorem classify_arbId_toNat (id : Word) : (classify id).arbId.toNat = id.toNat % 2 ^ 29 := by
  rw [classify, canEffMask, BitVec.toNat_and]
  exact Nat.and_two_pow_sub_one_eq_mod id.toNat 29

/-- A bit as a number. -/
theorem toNat_getLsbD {w : Nat} (v : BitVec w) (n : Nat) : (v.getLsbD n).toNat = v.toNat / 2 ^ n % 2 := by
  rw [← BitVec.testBit_toNat, Nat.toNat_testBit]

/-- The word is the weighted sum of CLASS's results. -/
theorem toNat_eq_classify (id : Word) :
    id.toNat = (classify id).ext.toNat * 2 ^ 31 + (classify id).rtr.toNat * 2 ^ 30 + (classify id).err.toNat * 2 ^ 29 +
      (classify id).arbId.toNat := by
  have h := id.isLt
  rw [classify_arbId_toNat]
  simp only [classify, bitsSet_canEffFlag, bitsSet_canRtrFlag, bitsSet_canErrFlag, toNat_getLsbD]
  omega

/-- Settles O18: each flag mask is one bit, and the id mask is the 29 bits below. -/
theorem classSplitsTheWord : Obligations.ClassSplitsTheWord :=
  fun _ id h => ⟨classify id, exec_cls_of_word h, bitsSet_canEffFlag id, bitsSet_canRtrFlag id, bitsSet_canErrFlag id,
    classify_arbId_toNat id, toNat_eq_classify id⟩

/-- CLASS of a frame's `can_id` gives the frame's derived predicates (R79). -/
theorem classify_canId (f : CanFrame) :
    classify f.canId = ⟨f.isExtendedId, f.isRemoteFrame, f.isErrorFrame, f.arbitrationId⟩ := by
  have harb : (classify f.canId).arbId = f.arbitrationId := by
    apply BitVec.eq_of_toNat_eq
    rw [classify_arbId_toNat, CanFrame.arbitrationId, BitVec.toNat_setWidth, BitVec.extractLsb'_toNat]
    omega
  rw [← harb, CanFrame.isExtendedId, ← bitsSet_canEffFlag, CanFrame.isRemoteFrame, ← bitsSet_canRtrFlag,
    CanFrame.isErrorFrame, ← bitsSet_canErrFlag]
  rfl

/-- Settles O19: the predicates' bits are those the masks of CLASS test. -/
theorem framePredicatesAreClass : Obligations.FramePredicatesAreClass := by
  intro s f h
  rw [exec_cls_of_word h, classify_canId]
  rfl

/-! ### TIMING -/

/-- What a row keeps (R86). The range of `sjw` says nothing more, since `sjw` = 1. -/
theorem timingRow_valid_iff (w : TimingRow) :
    w.valid = true ↔ w.timing.propSeg = 1 ∧ w.timing.sjw = 1 ∧
      1 ≤ w.timing.phaseSeg1.toNat ∧ w.timing.phaseSeg1.toNat ≤ 15 ∧
      1 ≤ w.timing.phaseSeg2.toNat ∧ w.timing.phaseSeg2.toNat ≤ 8 ∧
      1 ≤ w.timing.brp.toNat ∧ w.timing.brp.toNat ≤ 1024 := by
  simp only [TimingRow.valid, BitTiming.inRange, Bool.and_eq_true, decide_eq_true_eq]
  constructor
  · rintro ⟨⟨hprop, hsjw⟩, ⟨⟨⟨h1, h1'⟩, h2, h2'⟩, -⟩, hbrp, hbrp'⟩
    exact ⟨hprop, hsjw, h1, h1', h2, h2', hbrp, hbrp'⟩
  · rintro ⟨hprop, hsjw, h1, h1', h2, h2', hbrp, hbrp'⟩
    exact ⟨⟨hprop, hsjw⟩, ⟨⟨⟨h1, h1'⟩, h2, h2'⟩, by rw [hsjw]; decide⟩, hbrp, hbrp'⟩

/-- A timing TIMING answers with is that of a row of a valid table (R82, R86). -/
theorem exec_timing_eq_timing {s u : State} {t : BitTiming} (h : exec .timing s = .next u)
    (hu : u.response = some (.timing t)) :
    ∃ w ∈ s.config.timingTable, w.valid = true ∧ w.timing = t := by
  obtain ⟨x, rfl, b, -, hvalid, ⟨v, hlookup, rfl⟩ | ⟨-, rfl⟩⟩ := exec_eq_next h
  · cases hu
    obtain ⟨w, hw, -, rfl⟩ := lookupTiming_eq_some hlookup
    have hrow := ((tableValid_iff s.config).1 hvalid).1 w hw
    exact ⟨w, hw, hrow, timing_eq_of_valid hrow⟩
  · cases hu

/-- The values of the default rows (R86). -/
theorem defaultTimingTable_values : ∀ w ∈ Config.defaultTimingTable,
    w.timing.phaseSeg1 ∈ [11, 12] ∧ w.timing.phaseSeg2 = 2 ∧
      w.timing.brp ∈ [3, 4, 6, 12, 24, 30, 36, 60, 150, 300] := by decide

/-- Settles O23: the answer is a row's timing, and the row is valid. -/
theorem timingResultsAreInRange : Obligations.TimingResultsAreInRange := by
  intro s u t h hu
  obtain ⟨w, hw, hrow, rfl⟩ := exec_timing_eq_timing h hu
  refine ⟨(timingRow_valid_iff w).1 hrow, fun htable => ?_⟩
  rw [htable] at hw
  exact defaultTimingTable_values w hw

/-- TIMING refuses an invalid table whatever the bitrate (R86). -/
theorem exec_timing_of_not_tableValid {s : State} {bitrate : Word} (h : s.wordIn = some bitrate)
    (hvalid : s.config.tableValid = false) : exec .timing s = .refused .badTimingTable := by
  calc exec .timing s
    _ = execTiming s := rfl
    _ = .refused .badTimingTable := by simp [execTiming_of_word h, hvalid]

/-- Settles O24: a valid table has neither a repeated key nor a row outside its bounds. -/
theorem timingRefusesABrokenTable : Obligations.TimingRefusesABrokenTable := by
  intro s bitrate h hbroken
  refine exec_timing_of_not_tableValid h (Bool.eq_false_iff.2 fun hvalid => ?_)
  obtain ⟨hrows, hkeys⟩ := (tableValid_iff s.config).1 hvalid
  rcases hbroken with hrepeat | ⟨w, hw, hrow⟩
  · exact hrepeat hkeys
  · obtain ⟨hprop, hsjw, hbounds⟩ := (timingRow_valid_iff w).1 (hrows w hw)
    rcases hrow with h | h | hrow
    · exact h hprop
    · exact h hsjw
    · omega

/-! ### ERRDEC -/

/-- One bit decides a one-bit test. -/
theorem bitsSet_congr {w : Nat} {v u : BitVec w} (n : Nat) (hn : n < w) (h : v.getLsbD n = u.getLsbD n) :
    bitsSet v (BitVec.twoPow w n) = bitsSet u (BitVec.twoPow w n) := by
  rw [bitsSet_twoPow v n hn, bitsSet_twoPow u n hn, h]

/-- The report is a function of the inputs of R96. -/
theorem errorReportOf_congr {f g : CanFrame} (h : agreeOnErrdecInputs f g) : errorReportOf f = errorReportOf g := by
  obtain ⟨-, hid6, hid5, h12, h14, h21, h22, h23, h24, h33, htx, hrx, hflags⟩ := h
  have hbusOff : bitsSet f.canId 0x40 = bitsSet g.canId 0x40 := bitsSet_congr 6 (by decide) hid6
  have hack : bitsSet f.canId 0x20 = bitsSet g.canId 0x20 := bitsSet_congr 5 (by decide) hid5
  have hwarning : bitsSet f.data[1] 0x04 = bitsSet g.data[1] 0x04 := bitsSet_congr 2 (by decide) h12
  have hpassive : bitsSet f.data[1] 0x10 = bitsSet g.data[1] 0x10 := bitsSet_congr 4 (by decide) h14
  have hform : bitsSet f.data[2] 0x02 = bitsSet g.data[2] 0x02 := bitsSet_congr 1 (by decide) h21
  have hstuff : bitsSet f.data[2] 0x04 = bitsSet g.data[2] 0x04 := bitsSet_congr 2 (by decide) h22
  have hdominant : bitsSet f.data[2] 0x08 = bitsSet g.data[2] 0x08 := bitsSet_congr 3 (by decide) h23
  have hrecessive : bitsSet f.data[2] 0x10 = bitsSet g.data[2] 0x10 := bitsSet_congr 4 (by decide) h24
  have hcrc : bitsSet f.data[3] 0x08 = bitsSet g.data[3] 0x08 := bitsSet_congr 3 (by decide) h33
  have hoverload : bitsSet f.flags 0x01 = bitsSet g.flags 0x01 := bitsSet_congr 0 (by decide) hflags
  simp only [errorReportOf, errorFlagsOf, setWarningOrPassive, hbusOff, hack, hwarning, hpassive, hform, hstuff,
    hdominant, hrecessive, hcrc, hoverload, htx, hrx]

/-- ERRDEC of a frame with `can_id[29]` = 0 is the fault NotErrorFrame (R92). -/
theorem exec_errdec_of_not_errorFrame {s : State} {f : CanFrame} (h : s.frameIn = some f)
    (herr : f.canId.getLsbD 29 = false) : exec .errdec s = .fault .notErrorFrame := by
  have hpredicate : f.isErrorFrame = false := herr
  calc exec .errdec s
    _ = execErrdec s := rfl
    _ = .fault .notErrorFrame := by simp [execErrdec_of_frame h, hpredicate]

/-- Settles O31: bit 29 decides between the fault and a report, and the report reads the other inputs. -/
theorem errdecReadsOnlyItsInputs : Obligations.ErrdecReadsOnlyItsInputs := by
  intro s t f g hs ht hagree
  have h29 : f.canId.getLsbD 29 = g.canId.getLsbD 29 := hagree.1
  cases herr : f.canId.getLsbD 29 with
  | false => rw [exec_errdec_of_not_errorFrame hs herr, exec_errdec_of_not_errorFrame ht (h29.symm.trans herr)]
  | true =>
    rw [exec_errdec_of_errorFrame hs herr, exec_errdec_of_errorFrame ht (h29.symm.trans herr),
      errorReportOf_congr hagree]
    rfl

/-- Every bit of `error_flags` is that of a flag (10_state.md R28). -/
theorem ErrorFlag.exists_bit_eq {i : Nat} (hi : i < 10) : ∃ n : ErrorFlag, n.bit = i := by
  interval_cases i
  exacts [⟨.busOff, rfl⟩, ⟨.rxTxWarning, rfl⟩, ⟨.rxTxPassive, rfl⟩, ⟨.overload, rfl⟩, ⟨.stuff, rfl⟩, ⟨.form, rfl⟩,
    ⟨.ack, rfl⟩, ⟨.bitRecessive, rfl⟩, ⟨.bitDominant, rfl⟩, ⟨.crc, rfl⟩]

/-- Settles O32: each of the ten bits is a flag's. -/
theorem reportIsItsFlagsAndCounters : Obligations.ReportIsItsFlagsAndCounters := by
  intro r q hflags htx hrx
  have hbits : r.errorFlags = q.errorFlags := by
    apply BitVec.eq_of_getLsbD_eq
    intro i hi
    obtain ⟨n, rfl⟩ := ErrorFlag.exists_bit_eq hi
    exact hflags n
  obtain ⟨_, _, _⟩ := r
  obtain ⟨_, _, _⟩ := q
  rw [ErrorReport.mk.injEq]
  exact ⟨hbits, htx, hrx⟩

end Sys2Proof.Machine

/-!
PROOF. What holds of every instruction: the response it answers with, when it completes, what it reads and why it is
refused (30_encoding.md R57, 60_exceptions.md R98 to R100).
-/
namespace Sys2Proof.Machine

/-! ### The response -/

/-- A response of an opcode: a status the opcode can return, and its result port exactly when that is OK (R57, R100). -/
def RespondsFor (i : Instr) (x : Response) : Prop :=
  ∃ st, x.status = some st ∧ st ∈ statusesOf i ∧ x.port = if st = .ok then resultPort i else none

/-- Every instruction that answers a next state answers with a response of its opcode. -/
theorem exec_respondsFor {i : Instr} {s t : State} (h : exec i s = .next t) :
    ∃ x, t = s.answer x ∧ RespondsFor i x := by
  obtain ⟨x, rfl, hx⟩ := exec_eq_next h
  refine ⟨x, rfl, ?_⟩
  cases i with
  | enc => obtain ⟨f, -, rfl⟩ := hx; exact ⟨.ok, rfl, by decide, rfl⟩
  | dec =>
    obtain ⟨B, -, -, ⟨-, rfl⟩ | ⟨-, rfl⟩⟩ := hx
    · exact ⟨.ok, rfl, by decide, rfl⟩
    · exact ⟨.badLength, rfl, by decide, rfl⟩
  | cls => obtain ⟨id, -, rfl⟩ := hx; exact ⟨.ok, rfl, by decide, rfl⟩
  | timing =>
    obtain ⟨b, -, -, ⟨u, -, rfl⟩ | ⟨-, rfl⟩⟩ := hx
    · exact ⟨.ok, rfl, by decide, rfl⟩
    · exact ⟨.unsupportedBitrate, rfl, by decide, rfl⟩
  | tpay => obtain ⟨u, -, rfl⟩ := hx; exact ⟨.ok, rfl, by decide, rfl⟩
  | errdec => obtain ⟨f, -, -, rfl⟩ := hx; exact ⟨.ok, rfl, by decide, rfl⟩
  | reservedZero | reservedOp _ | reservedHigh _ _ =>
    rw [show x = .illegalOp from hx]
    exact ⟨.illegalOp, rfl, List.mem_singleton.2 rfl, rfl⟩

/-- A response with a status is not the one left open. -/
theorem RespondsFor.ne_unspecified {i : Instr} {x : Response} (h : RespondsFor i x) : x ≠ .unspecified := by
  rintro rfl
  obtain ⟨_, hst, -⟩ := h
  cases hst

/-- Settles O35: a next state is the state answered, with a response of the opcode. -/
theorem execChangesOnlyTheTransaction : Obligations.ExecChangesOnlyTheTransaction := by
  intro i s t h
  obtain ⟨x, rfl, hx⟩ := exec_respondsFor h
  exact ⟨rfl, rfl, rfl, rfl, rfl, x, rfl, hx.ne_unspecified⟩

theorem Status.code_toNat_le (st : Status) : st.code.toNat ≤ 3 := by cases st <;> decide

/-- Settles O38: a response of an opcode has a status, and each of the four has its code. -/
theorem statusIsOneOfFour : Obligations.StatusIsOneOfFour := by
  refine ⟨rfl, rfl, rfl, rfl, fun i s t h => ?_⟩
  obtain ⟨x, rfl, st, hst, -⟩ := exec_respondsFor h
  exact ⟨x, st, rfl, hst, st.code_toNat_le⟩

/-! ### Completion -/

/-- Under its condition an instruction answers a next state. -/
theorem exists_exec_eq_next_of_completes {i : Instr} {s : State} (h : completes i s) : ∃ t, exec i s = .next t := by
  cases i with
  | enc =>
    obtain ⟨f, hf⟩ := Option.isSome_iff_exists.1 h
    exact ⟨_, exec_enc_of_frame hf⟩
  | dec =>
    obtain ⟨B, hB, hmax⟩ := h
    exact exists_exec_dec_eq_next hB hmax
  | cls =>
    obtain ⟨id, hid⟩ := Option.isSome_iff_exists.1 h
    exact ⟨_, exec_cls_of_word hid⟩
  | timing =>
    obtain ⟨hword, hvalid⟩ := h
    obtain ⟨b, hb⟩ := Option.isSome_iff_exists.1 hword
    rcases key_cases s.config.timingTable b with ⟨-, w, hw, rfl⟩ | ⟨-, hne⟩
    · exact ⟨_, exec_timing_of_key hb hvalid hw⟩
    · exact ⟨_, exec_timing_of_not_key hb hvalid hne⟩
  | tpay =>
    obtain ⟨u, hu⟩ := Option.isSome_iff_exists.1 h
    exact ⟨_, exec_tpay_of_timing hu⟩
  | errdec =>
    obtain ⟨f, hf, herr⟩ := h
    exact ⟨_, exec_errdec_of_errorFrame hf herr⟩
  | reservedZero | reservedOp _ | reservedHigh _ _ => exact ⟨_, rfl⟩

theorem exec_of_completes {i : Instr} {s : State} (h : completes i s) :
    ∃ x, exec i s = .next (s.answer x) ∧ RespondsFor i x := by
  obtain ⟨t, ht⟩ := exists_exec_eq_next_of_completes h
  obtain ⟨x, rfl, hx⟩ := exec_respondsFor ht
  exact ⟨x, ht, hx⟩

/-- Settles O37: the instruction answers, and every answer is a response of the opcode. -/
theorem everyInstructionCompletes : Obligations.EveryInstructionCompletes := by
  intro i s h
  obtain ⟨x, hexec, st, hst, hmem, hport⟩ := exec_of_completes h
  exact ⟨x, st, hexec, hst, hmem, hport⟩

/-! ### What an instruction reads -/

/-- Two readings of one value agree in their reply where their continuations do. -/
theorem replyOf_readPort_congr {α : Type} {p : Port} {a b : Option α} {k l : α → Host.Outcome State Fault Refusal}
    (hab : a = b) (hkl : ∀ v, replyOf (k v) = replyOf (l v)) :
    replyOf (readPort p a k) = replyOf (readPort p b l) := by
  subst hab
  cases a with
  | none => rfl
  | some v => exact hkl v

/-- Settles O36: each meaning is a function of the value of its port and of the configuration. -/
theorem execReadsOnlyItsPort : Obligations.ExecReadsOnlyItsPort := by
  intro i s t hconfig hport
  cases i with
  | enc | cls | tpay => exact replyOf_readPort_congr (hport _ rfl) fun _ => rfl
  | dec =>
    refine replyOf_readPort_congr (hport _ rfl) fun B => ?_
    rw [hconfig]
    split
    · rfl
    · split <;> rfl
  | timing =>
    refine replyOf_readPort_congr (hport _ rfl) fun b => ?_
    rw [hconfig]
    split
    · rfl
    · split <;> rfl
  | errdec =>
    refine replyOf_readPort_congr (hport _ rfl) fun f => ?_
    split <;> rfl
  | reservedZero | reservedOp _ | reservedHigh _ _ => rfl

/-! ### Refusals -/

/-- A buffer is too long only for a bound that is configured (00_scope.md R12). -/
theorem bufTooLong_eq_true_iff (c : Config) (n : Nat) :
    c.bufTooLong n = true ↔ ∃ m, c.maxBufLen = some m ∧ m < n := by
  unfold Config.bufTooLong
  cases c.maxBufLen <;> simp

/-- DEC refuses a buffer above a configured MAX_BUF_LEN (R12). -/
theorem exec_dec_of_bufTooLong {s : State} {B : List Byte} (h : s.bufIn = some B)
    (hmax : s.config.bufTooLong B.length = true) : exec .dec s = .refused .bufferTooLong := by
  calc exec .dec s
    _ = execDec s := rfl
    _ = .refused .bufferTooLong := by simp [execDec_of_buffer h, hmax]

/-- Settles O15: after reset no bound is configured, and a bound below the length is exceeded. -/
theorem decRefusesAboveMaxBufLen : Obligations.DecRefusesAboveMaxBufLen :=
  ⟨rfl, fun s B m hB hmax hlt =>
    exec_dec_of_bufTooLong hB ((bufTooLong_eq_true_iff s.config B.length).2 ⟨m, hmax, hlt⟩)⟩

/-- The port a state's operand is read from carries no value. -/
def portEmpty (s : State) : Port → Prop
  | .frameIn => s.frameIn = none
  | .bufIn => s.bufIn = none
  | .wordIn => s.wordIn = none
  | .timingIn => s.timingIn = none

/-- An instruction whose port is empty is refused for want of its operand. -/
theorem exec_of_portEmpty {i : Instr} {s : State} {p : Port} (hi : operandPort i = some p) (h : portEmpty s p) :
    exec i s = .refused (.noOperand p) := by
  cases i with
  | enc => cases hi; simp [exec, execEnc, show s.frameIn = none from h]
  | dec => cases hi; simp [exec, execDec, show s.bufIn = none from h]
  | cls => cases hi; simp [exec, execCls, show s.wordIn = none from h]
  | timing => cases hi; simp [exec, execTiming, show s.wordIn = none from h]
  | tpay => cases hi; simp [exec, execTpay, show s.timingIn = none from h]
  | errdec => cases hi; simp [exec, execErrdec, show s.frameIn = none from h]
  | reservedZero | reservedOp _ | reservedHigh _ _ => cases hi

/-- Why an instruction is refused: its port is empty, the buffer is above a bound, or the table is invalid. -/
theorem exec_eq_refused {i : Instr} {s : State} {e : Refusal} (h : exec i s = .refused e) :
    (∃ p, operandPort i = some p ∧ portEmpty s p ∧ e = .noOperand p) ∨
      (i = .dec ∧ ∃ B, s.bufIn = some B ∧ s.config.bufTooLong B.length = true ∧ e = .bufferTooLong) ∨
      (i = .timing ∧ s.config.tableValid = false ∧ e = .badTimingTable) := by
  by_cases hport : ∃ p, operandPort i = some p ∧ portEmpty s p
  · obtain ⟨p, hi, hp⟩ := hport
    cases (exec_of_portEmpty hi hp).symm.trans h
    exact .inl ⟨p, hi, hp, rfl⟩
  have hcarried : ∀ p, operandPort i = some p → ¬ portEmpty s p := fun p hi hp => hport ⟨p, hi, hp⟩
  cases i with
  | enc =>
    obtain ⟨f, hf⟩ := Option.ne_none_iff_exists'.1 (hcarried .frameIn rfl)
    cases (exec_enc_of_frame hf).symm.trans h
  | dec =>
    obtain ⟨B, hB⟩ := Option.ne_none_iff_exists'.1 (hcarried .bufIn rfl)
    cases hmax : s.config.bufTooLong B.length with
    | false =>
      obtain ⟨t, ht⟩ := exists_exec_dec_eq_next hB hmax
      cases ht.symm.trans h
    | true =>
      cases (exec_dec_of_bufTooLong hB hmax).symm.trans h
      exact .inr (.inl ⟨rfl, B, hB, hmax, rfl⟩)
  | cls =>
    obtain ⟨id, hid⟩ := Option.ne_none_iff_exists'.1 (hcarried .wordIn rfl)
    cases (exec_cls_of_word hid).symm.trans h
  | timing =>
    obtain ⟨b, hb⟩ := Option.ne_none_iff_exists'.1 (hcarried .wordIn rfl)
    cases hvalid : s.config.tableValid with
    | false =>
      cases (exec_timing_of_not_tableValid hb hvalid).symm.trans h
      exact .inr (.inr ⟨rfl, rfl, rfl⟩)
    | true =>
      obtain ⟨t, ht⟩ := exists_exec_eq_next_of_completes (i := .timing) ⟨by simp [hb], hvalid⟩
      cases ht.symm.trans h
  | tpay =>
    obtain ⟨u, hu⟩ := Option.ne_none_iff_exists'.1 (hcarried .timingIn rfl)
    cases (exec_tpay_of_timing hu).symm.trans h
  | errdec =>
    obtain ⟨f, hf⟩ := Option.ne_none_iff_exists'.1 (hcarried .frameIn rfl)
    cases herr : f.canId.getLsbD 29 with
    | false => cases (exec_errdec_of_not_errorFrame hf herr).symm.trans h
    | true => cases (exec_errdec_of_errorFrame hf herr).symm.trans h
  | reservedZero | reservedOp _ | reservedHigh _ _ => cases h

end Sys2Proof.Machine

/-!
PROOF. The invariant of the machine: the host agent's turn, an answer and a recorded fault each keep it
(20_memory.md R49, 60_exceptions.md R103).
-/
namespace Sys2Proof.Machine

/-! ### Responses of a state -/

@[simp] theorem State.hostTurn_response (s : State) : s.hostTurn.response = none := by
  unfold State.hostTurn
  split <;> rfl

/-- The host agent's turn makes no response: it reads the one pending or drops it. -/
theorem responsesOf_hostTurn_subset (s : State) : responsesOf s.hostTurn ⊆ responsesOf s := by
  have hread : s.received ++ s.response.toList ++ [] ⊆ responsesOf s := by simp [responsesOf]
  have hdrop : s.received ++ [] ⊆ responsesOf s := by simp [responsesOf]
  unfold State.hostTurn
  split
  · exact hread
  · exact hread
  · exact hread
  · exact hdrop

/-- With no response pending an answer adds its response to those read. -/
theorem mem_responsesOf_answer {s : State} {x y : Response} (h : y ∈ responsesOf (s.answer x)) :
    y ∈ responsesOf s ∨ y = x := by
  simp only [responsesOf, State.answer_received, State.answer_response, Option.toList_some, List.mem_append,
    List.mem_singleton] at h
  exact h.imp_left fun hread => List.mem_append_left _ hread

/-! ### The three ways a step ends -/

theorem Inv.hostTurn {s : State} (h : Inv s) : Inv s.hostTurn where
  oneAtATime := .inr s.hostTurn_response
  tableValid := s.hostTurn_frame.1 ▸ h.tableValid
  legal x hx := h.legal x (responsesOf_hostTurn_subset s hx)
  marked hx := s.hostTurn_frame.2 ▸ h.marked (responsesOf_hostTurn_subset s hx)

/-- A legal answer keeps the invariant, where it is not the one left open. -/
theorem Inv.answer {s : State} (h : Inv s) {x : Response} (hlegal : legalResponse x = true)
    (hopen : x ≠ .unspecified) : Inv (s.answer x) where
  oneAtATime := .inl rfl
  tableValid := h.tableValid
  legal y hy := by
    rcases mem_responsesOf_answer hy with hy | rfl
    · exact h.legal y hy
    · exact hlegal
  marked hy := by
    rcases mem_responsesOf_answer hy with hy | rfl
    · exact h.marked hy
    · exact absurd rfl hopen

/-- The response left open is legal, and the fault recorded with it is the mark. -/
theorem Inv.recordFault {s : State} (h : Inv s) : Inv s.recordFault where
  oneAtATime := .inl rfl
  tableValid := h.tableValid
  legal y hy := by
    rcases mem_responsesOf_answer (s := s) (x := .unspecified) hy with hy | rfl
    · exact h.legal y hy
    · rfl
  marked _ := rfl

/-- A timing of a valid row is one TIMING can answer with (10_state.md R27, R86). -/
theorem legalResponse_timing_of_valid {w : TimingRow} (h : w.valid = true) :
    legalResponse (.timing w.timing) = true := h

/-- Every response of an instruction is legal for its opcode. -/
theorem exec_legalResponse {i : Instr} {s : State} {x : Response} (h : exec i s = .next (s.answer x)) :
    legalResponse x = true := by
  obtain ⟨y, hy, hx⟩ := exec_eq_next h
  obtain rfl : x = y := Option.some.inj (congrArg State.response hy)
  cases i with
  | enc => obtain ⟨f, -, rfl⟩ := hx; simp only [legalResponse, encodeFrame_length, decide_true]
  | dec => obtain ⟨B, -, -, ⟨-, rfl⟩ | ⟨-, rfl⟩⟩ := hx <;> rfl
  | cls =>
    obtain ⟨id, -, rfl⟩ := hx
    rw [legalResponse, decide_eq_true_iff, classify_arbId_toNat]
    exact Nat.mod_lt _ (by decide)
  | timing =>
    obtain ⟨b, -, -, ⟨u, -, rfl⟩ | ⟨-, rfl⟩⟩ := hx
    · obtain ⟨w, -, hvalid, rfl⟩ := exec_timing_eq_timing h rfl
      exact legalResponse_timing_of_valid hvalid
    · rfl
  | tpay => obtain ⟨u, -, rfl⟩ := hx; simp only [legalResponse, timingPayload_length, decide_true]
  | errdec =>
    obtain ⟨f, -, -, rfl⟩ := hx
    rw [legalResponse, Bool.not_eq_true', ← Bool.not_eq_true, Bool.and_eq_true]
    exact errorReportOf_not_warning_and_passive f
  | reservedZero | reservedOp _ | reservedHigh _ _ => rw [show x = .illegalOp from hx]; rfl

theorem inv_of_exec_eq_next {i : Instr} {s t : State} (h : Inv s) (hexec : exec i s = .next t) : Inv t := by
  obtain ⟨x, rfl, hx⟩ := exec_respondsFor hexec
  exact h.answer (exec_legalResponse hexec) hx.ne_unspecified

/-- Settles O39: a step is the host agent's turn, an instruction's answer, or the fault recorded. -/
theorem stepKeepsTheInvariant : Obligations.StepKeepsTheInvariant := by
  intro s t hinv h
  rcases step_eq_next h with ⟨-, rfl⟩ | ⟨r, -, -, hexec | ⟨-, rfl⟩⟩
  · exact hinv.hostTurn
  · exact inv_of_exec_eq_next hinv hexec
  · exact hinv.recordFault

/-- Settles O40: no request, no response, and the default table, which is valid. -/
theorem resetMeetsTheInvariant : Obligations.ResetMeetsTheInvariant where
  oneAtATime := .inl rfl
  tableValid := tableValid_of_defaultTimingTable rfl
  legal _ hx := nomatch hx
  marked hx := nomatch hx

/-! ### The mark -/

/-- No step clears the mark. -/
theorem step_keeps_mark {s t : State} (hs : s.notErrorFrame = true) (h : step s = .next t) :
    t.notErrorFrame = true := by
  rcases step_eq_next h with ⟨-, rfl⟩ | ⟨r, -, -, hexec | ⟨-, rfl⟩⟩
  · exact s.hostTurn_frame.2.trans hs
  · obtain ⟨x, rfl, -⟩ := exec_respondsFor hexec
    exact hs
  · rfl

/-- Settles O42: every step keeps the mark, so a run of any length does. -/
theorem faultMarkIsNeverCleared : Obligations.FaultMarkIsNeverCleared := by
  intro n s t hs h
  have ht : t.notErrorFrame = true := run_preserves (P := fun u => u.notErrorFrame = true)
    (fun _ _ => step_keeps_mark) hs h
  exact ⟨ht, by simp [good, ht]⟩

/-- The byte of ERRDEC is the only one that decodes to it (30_encoding.md R56). -/
theorem eq_of_decodeCmd_eq {cmd : Byte} {i : Instr} (h : decodeCmd cmd = i) : cmd = encode i := by
  rw [← h, encode_decodeCmd]

/-- Settles O43: the host agent and an answer leave the mark, and only ERRDEC on a non-error frame is the fault. -/
theorem onlyErrdecSetsTheMark : Obligations.OnlyErrdecSetsTheMark := by
  intro s t h hs ht
  rcases step_eq_next h with ⟨-, rfl⟩ | ⟨r, hr, -, hexec | ⟨hfault, -⟩⟩
  · rw [s.hostTurn_frame.2, hs] at ht
    cases ht
  · obtain ⟨x, rfl, -⟩ := exec_respondsFor hexec
    cases hs.symm.trans ht
  · obtain ⟨hi, f, hf, herr⟩ := exec_eq_fault hfault
    exact ⟨r, f, hr, eq_of_decodeCmd_eq hi, (State.frameIn_of_request hr).symm.trans hf, herr⟩

end Sys2Proof.Machine

/-!
PROOF. A step with a request in flight: which outcomes it has, and what they depend on (60_exceptions.md R98, R105,
20_memory.md R45).
-/
namespace Sys2Proof.Machine

theorem step_of_request {s : State} {r : Request} (hr : s.request = some r) (hreset : s.resetArrives = false) :
    step s = settle s (exec (decodeCmd r.cmd) s) := by
  simp [step, hr, hreset]

theorem step_of_no_request {s : State} (h : s.request = none) : step s = .next s.hostTurn := by
  simp [step, h]

theorem step_of_resetArrives {s : State} (h : s.resetArrives = true) : step s = .next s.hostTurn := by
  unfold step
  cases s.request with
  | none => rfl
  | some r => simp [h]

/-- Settles O5: settling passes a next state and a refusal on, and records the fault. -/
theorem stepRunsTheDecodedInstruction : Obligations.StepRunsTheDecodedInstruction := by
  intro s r hr hreset
  rw [step_of_request hr hreset]
  refine ⟨wellFormed_decodeCmd r.cmd, fun t h => ?_, fun e h => ?_, fun h => ?_⟩
  · rw [h, settle_next]
  · rw [h, settle_refused]
  · rw [h, settle_fault]
    rfl

/-- Settles O30: the fault, settled. -/
theorem errdecFaultsOnNonErrorFrames : Obligations.ErrdecFaultsOnNonErrorFrames := by
  intro s f hf herr
  have hfault := exec_errdec_of_not_errorFrame hf herr
  refine ⟨hfault, fun r hr hcmd hreset => ?_, rfl, rfl⟩
  rw [step_of_request hr hreset, hcmd, show decodeCmd 0x06 = .errdec from decodeCmd_errdec, hfault, settle_fault]
  rfl

/-- A CMD outside 1 to 6, by its fields (30_encoding.md R58). -/
theorem isReserved_of_fields {cmd : Byte}
    (h : zeroField cmd ≠ 0#4 ∨ opField cmd = 0#4 ∨ 7 ≤ (opField cmd).toNat) : (decodeCmd cmd).isReserved = true := by
  rw [← Bool.not_eq_false, isReserved_decodeCmd_eq_false_iff, toNat_eq_fields]
  have hop := (opField cmd).isLt
  rcases h with hzero | hop0 | hop7
  · have hpos : 0 < (zeroField cmd).toNat := Nat.pos_of_ne_zero fun h0 => hzero (BitVec.eq_of_toNat_eq h0)
    omega
  · rw [hop0, BitVec.toNat_zero]
    omega
  · omega

/-- Settles O34: the decoded instruction is reserved, and such a row reads no port. -/
theorem commandIsCheckedFirst : Obligations.CommandIsCheckedFirst := by
  intro s r hr hreset hfields
  rw [step_of_request hr hreset, exec_of_isReserved (isReserved_of_fields hfields), settle_next]
  rfl

/-! ### Outcomes -/

/-- A step never faults: settling records the fault. -/
theorem step_ne_fault (s : State) (e : Fault) : step s ≠ .fault e := by
  rcases step_cases s with ⟨-, hs⟩ | ⟨r, -, -, hs⟩ <;> rw [hs]
  · exact nofun
  · rcases exec (decodeCmd r.cmd) s with t | ⟨⟨⟩⟩ | e <;> exact nofun

/-- A refused step is a refused instruction. -/
theorem step_eq_refused {s : State} {e : Refusal} (h : step s = .refused e) :
    ∃ r, s.request = some r ∧ exec (decodeCmd r.cmd) s = .refused e := by
  rcases step_cases s with ⟨-, hs⟩ | ⟨r, hr, -, hs⟩ <;> rw [hs] at h
  · cases h
  · refine ⟨r, hr, ?_⟩
    rcases hexec : exec (decodeCmd r.cmd) s with t | ⟨⟨⟩⟩ | e' <;> rw [hexec] at h <;> cases h
    rfl

/-- An empty port is one the request carries no value on. -/
theorem carries_of_portEmpty {s : State} {r : Request} (hr : s.request = some r) {p : Port} (h : portEmpty s p) :
    r.carries p = false := by
  cases p with
  | frameIn => rw [portEmpty, State.frameIn_of_request hr] at h; simp [Request.carries, h]
  | bufIn => rw [portEmpty, State.bufIn_of_request hr] at h; simp [Request.carries, h]
  | wordIn => rw [portEmpty, State.wordIn_of_request hr] at h; simp [Request.carries, h]
  | timingIn => rw [portEmpty, State.timingIn_of_request hr] at h; simp [Request.carries, h]

/-- Settles O44: settling removes the one fault, and the refusals are those of the instruction. -/
theorem stepsStopOnlyForRefusals : Obligations.StepsStopOnlyForRefusals := by
  refine fun s => ⟨step_ne_fault s, fun e h => ?_⟩
  obtain ⟨r, hr, hexec⟩ := step_eq_refused h
  refine ⟨r, hr, ?_⟩
  rcases exec_eq_refused hexec with ⟨p, hp, hempty, he⟩ | ⟨hi, B, hB, hlong, he⟩ | ⟨hi, hvalid, he⟩
  · exact .inl ⟨p, hp, carries_of_portEmpty hr hempty, he⟩
  · obtain ⟨m, hm, hlt⟩ := (bufTooLong_eq_true_iff s.config B.length).1 hlong
    exact .inr (.inl ⟨B, m, eq_of_decodeCmd_eq hi, (State.bufIn_of_request hr).symm.trans hB, hm, hlt, he⟩)
  · exact .inr (.inr ⟨eq_of_decodeCmd_eq hi, hvalid, he⟩)

/-- A step that performs a request ends it with a response and leaves the configuration and the host's data. -/
theorem step_of_request_eq_next {s t : State} {r : Request} (hr : s.request = some r)
    (hreset : s.resetArrives = false) (h : step s = .next t) :
    t.request = none ∧ (∃ x, t.response = some x) ∧ t.config = s.config ∧ t.script = s.script ∧
      t.received = s.received := by
  rw [step_of_request hr hreset] at h
  rcases settle_eq_next h with hexec | ⟨-, rfl⟩
  · obtain ⟨x, rfl, -⟩ := exec_respondsFor hexec
    exact ⟨rfl, ⟨x, rfl⟩, rfl, rfl, rfl⟩
  · exact ⟨rfl, ⟨_, rfl⟩, rfl, rfl, rfl⟩

/-- A well-formed request carries a value on the port its opcode names (10_state.md R21). -/
theorem Request.carries_of_wellFormed {r : Request} (h : r.wellFormed = true) {p : Port}
    (hp : operandPort (decodeCmd r.cmd) = some p) : r.carries p = true := by
  have hall := List.all_eq_true.1 h p (by cases p <;> decide)
  simpa [hp] using hall

/-- Under the default configuration no reason to refuse a well-formed request is left. -/
theorem exists_step_eq_next {s : State} {r : Request} (hr : s.request = some r) (hwf : r.wellFormed = true)
    (hconfig : s.config = Config.default) : ∃ t, step s = .next t := by
  obtain ⟨hfault, hrefused⟩ := stepsStopOnlyForRefusals s
  cases h : step s with
  | next t => exact ⟨t, rfl⟩
  | fault e => exact absurd h (hfault e)
  | refused e =>
    obtain ⟨q, hq, hreason⟩ := hrefused e h
    obtain rfl : r = q := Option.some.inj (hr.symm.trans hq)
    rcases hreason with ⟨p, hp, hcarries, -⟩ | ⟨_, m, -, -, hm, -⟩ | ⟨-, hvalid, -⟩
    · cases hcarries.symm.trans (Request.carries_of_wellFormed hwf hp)
    · rw [hconfig] at hm
      cases hm
    · rw [hconfig, tableValid_of_defaultTimingTable rfl] at hvalid
      cases hvalid

/-- Settles O45: the step is not refused, and what it answers ends the request. -/
theorem wellFormedRequestsComplete : Obligations.WellFormedRequestsComplete := by
  intro s r hr hwf hreset hconfig
  obtain ⟨t, ht⟩ := exists_step_eq_next hr hwf hconfig
  obtain ⟨hrequest, ⟨x, hx⟩, hframe⟩ := step_of_request_eq_next hr hreset ht
  exact ⟨t, x, ht, hrequest, hx, hframe⟩

/-! ### What a response depends on -/

/-- What settling makes of a reply: the fault becomes the response left open (60_exceptions.md R103). -/
def settledReply : Host.Outcome (Option Response) Fault Refusal → Host.Outcome (Option Response) Fault Refusal
  | .next x => .next x
  | .fault .notErrorFrame => .next (some .unspecified)
  | .refused r => .refused r

theorem replyOf_settle (s : State) (o : Host.Outcome State Fault Refusal) :
    replyOf (settle s o) = settledReply (replyOf o) := by
  rcases o with t | ⟨⟨⟩⟩ | r <;> rfl

/-- One request puts one value on each port. -/
theorem samePort_of_request {s t : State} (h : s.request = t.request) (p : Port) : samePort s t p := by
  cases p <;> simp [samePort, State.frameIn, State.bufIn, State.wordIn, State.timingIn, h]

/-- Settles O46: the instruction reads its port and the configuration alone, and settling adds nothing. -/
theorem responseDependsOnTheRequestAlone : Obligations.ResponseDependsOnTheRequestAlone := by
  intro s t r hs ht hconfig hsreset htreset
  have hexec : replyOf (exec (decodeCmd r.cmd) s) = replyOf (exec (decodeCmd r.cmd) t) :=
    execReadsOnlyItsPort _ s t hconfig fun p _ => samePort_of_request (hs.trans ht.symm) p
  rw [step_of_request hs hsreset, step_of_request ht htreset, replyOf_settle, replyOf_settle, hexec]

end Sys2Proof.Machine

/-!
PROOF. The host agent's turn, by its next event (20_memory.md R49, 70_reset_and_hazards.md R119), and the requests of a
script answered in order.
-/
namespace Sys2Proof.Machine

/-! ### The host agent's turn -/

theorem State.hostTurn_of_nil {s : State} (h : s.script = []) : s.hostTurn = s.collect := by
  simp [State.hostTurn, h]

theorem State.hostTurn_of_issue {s : State} {r : Request} {rest : List HostEvent} (h : s.script = .issue r :: rest) :
    s.hostTurn = { s.collect with request := some r, script := rest } := by
  simp [State.hostTurn, h]

theorem State.hostTurn_of_read {s : State} {rest : List HostEvent} (h : s.script = .read :: rest) :
    s.hostTurn = { s.collect with script := rest } := by
  simp [State.hostTurn, h]

theorem State.hostTurn_of_reset {s : State} {rest : List HostEvent} (h : s.script = .reset :: rest) :
    s.hostTurn = { s.applyReset with script := rest } := by
  simp [State.hostTurn, h]

/-- With no response pending there is nothing to read. -/
theorem State.collect_of_no_response {s : State} (h : s.response = none) : s.collect = s := by
  obtain ⟨_, _, _, _, _, _⟩ := s
  cases h
  simp [State.collect]

/-- Settles O7: a step with no request in flight is the host agent's turn, by its next event. -/
theorem hostMovesBetweenTransactions : Obligations.HostMovesBetweenTransactions := by
  intro s hs
  rw [step_of_no_request hs]
  refine ⟨fun h => ?_, fun r rest h => ?_, fun rest h => ?_, fun rest h => ?_, fun h hresponse => ?_⟩
  · rw [State.hostTurn_of_nil h]
    rfl
  · rw [State.hostTurn_of_issue h]
    rfl
  · rw [State.hostTurn_of_read h]
    rfl
  · rw [State.hostTurn_of_reset h, State.applyReset, ← hs]
  · rw [State.hostTurn_of_nil h, State.collect_of_no_response hresponse]

/-- Settles O48: the fields of the reset state, and the first turn of a host with one request. -/
theorem resetLeavesTheBlockEmpty : Obligations.ResetLeavesTheBlockEmpty := by
  refine ⟨rfl, rfl, rfl, rfl, fun r => ?_⟩
  rw [step_of_no_request rfl, State.hostTurn_of_issue rfl]
  rfl

/-- Settles O49: a reset that arrives is the host agent's turn, whatever is in flight. -/
theorem resetAbandonsTheTransaction : Obligations.ResetAbandonsTheTransaction := by
  intro s r rest _ h
  rw [step_of_resetArrives (by rw [State.resetArrives, h]), State.hostTurn_of_reset h]
  rfl

/-! ### A placed word -/

theorem State.placeCmd_reset_request (cmd : Byte) :
    (State.reset.placeCmd cmd).request = some (Request.withCmd { cmd } cmd) := rfl

/-- From reset the placed byte finds an operand on its port, the default table, no bound, and an error frame (log 3). -/
theorem completes_placeCmd_reset (cmd : Byte) : completes (decodeCmd cmd) (State.reset.placeCmd cmd) := by
  have hr := State.placeCmd_reset_request cmd
  unfold Request.withCmd at hr
  cases h : decodeCmd cmd with
  | reservedZero | reservedOp _ | reservedHigh _ _ => trivial
  | enc =>
    rw [h] at hr
    exact congrArg Option.isSome (State.frameIn_of_request hr)
  | dec =>
    rw [h] at hr
    exact ⟨blankBytes 24, State.bufIn_of_request hr, rfl⟩
  | cls =>
    rw [h] at hr
    exact congrArg Option.isSome (State.wordIn_of_request hr)
  | timing =>
    rw [h] at hr
    exact ⟨congrArg Option.isSome (State.wordIn_of_request hr), tableValid_of_defaultTimingTable rfl⟩
  | tpay =>
    rw [h] at hr
    exact congrArg Option.isSome (State.timingIn_of_request hr)
  | errdec =>
    rw [h] at hr
    exact ⟨{ canId := 0x20000000 }, State.frameIn_of_request hr, by decide⟩

/-- Settles O6: a placed byte is in flight with no reset before it, and from reset its operation completes. -/
theorem placedWordIsPerformedNext : Obligations.PlacedWordIsPerformedNext := by
  refine ⟨fun s w i hi => ?_, fun w => ?_⟩
  · obtain ⟨⟨r, hr, hcmd⟩, hreset, -, -⟩ := s.placeCmd_spec (cmdByte 8 w)
    obtain rfl : decodeCmd (cmdByte 8 w) = i := Option.some.inj hi
    rw [← hcmd]
    exact ⟨r, hr, rfl, step_of_request hr hreset⟩
  · obtain ⟨⟨r, hr, hcmd⟩, hreset, -, hmark⟩ := State.reset.placeCmd_spec (cmdByte 8 w)
    obtain ⟨x, hexec, hx⟩ := exec_of_completes (completes_placeCmd_reset (cmdByte 8 w))
    refine ⟨(State.reset.placeCmd (cmdByte 8 w)).answer x, x, ?_, rfl, hx.ne_unspecified, hmark⟩
    rw [State.withFetchWord, step_of_request hr hreset, hcmd, hexec, settle_next]

/-! ### Requests in order -/

/-- A step answers the request in flight as a fresh block of the same configuration does (20_memory.md R45, R46). -/
theorem step_of_replyTo {s : State} {r : Request} {x : Response} (hr : s.request = some r)
    (hreset : s.resetArrives = false) (hx : replyTo s.config r = some x) :
    ∃ t, step s = .next t ∧ t.request = none ∧ t.response = some x ∧ t.config = s.config ∧ t.script = s.script ∧
      t.received = s.received := by
  have hreply : replyOf (step s) = replyOf (step { State.reset with config := s.config, request := some r }) :=
    responseDependsOnTheRequestAlone s _ r hr rfl rfl hreset rfl
  unfold replyTo at hx
  split at hx
  case h_2 | h_3 => cases hx
  next u hu =>
    rw [hu] at hreply
    cases ht : step s with
    | next t =>
      rw [ht] at hreply
      obtain ⟨hrequest, -, hframe⟩ := step_of_request_eq_next hr hreset ht
      exact ⟨t, rfl, hrequest, (Host.Outcome.next.inj hreply).trans hx, hframe⟩
    | fault e => rw [ht] at hreply; cases hreply
    | refused e => rw [ht] at hreply; cases hreply

/-- A host that only issues requests sends no reset. -/
theorem resetArrives_of_requests {s : State} {rs : List Request} (h : s.script = rs.map HostEvent.issue) :
    s.resetArrives = false := by
  rw [State.resetArrives, h]
  cases rs <;> rfl

/-- The host issues a request and the block answers it: two steps, in which the response pending before is read and the
new one is that of a fresh block. -/
theorem run_issue {s : State} {r : Request} {rs : List Request} {x : Response} (hrequest : s.request = none)
    (hscript : s.script = (r :: rs).map HostEvent.issue) (hx : replyTo s.config r = some x) :
    ∃ t, (∀ n, core.run (n + 2) s = core.run n t) ∧ t.request = none ∧ t.response = some x ∧ t.config = s.config ∧
      t.script = rs.map HostEvent.issue ∧ t.received = s.received ++ s.response.toList := by
  have hissue : step s = .next s.hostTurn := step_of_no_request hrequest
  rw [State.hostTurn_of_issue hscript] at hissue
  have hreset : State.resetArrives { s.collect with request := some r, script := rs.map HostEvent.issue } = false :=
    resetArrives_of_requests rfl
  obtain ⟨t, hserve, hframe⟩ := step_of_replyTo rfl hreset hx
  exact ⟨t, fun n => (run_succ_of_next hissue).trans (run_succ_of_next hserve), hframe⟩

/-- Two steps a request, and one to read the last response, also where a response is pending at the start. -/
theorem run_script_of_requests (rs : List Request) (xs : List Response) (s : State) (hrequest : s.request = none)
    (hscript : s.script = rs.map HostEvent.issue) (hreply : rs.map (replyTo s.config) = xs.map some) :
    ∃ t, core.run (2 * rs.length + 1) s = .next t ∧ idle t ∧ t.script = [] ∧ t.config = s.config ∧
      t.received = s.received ++ s.response.toList ++ xs := by
  induction rs generalizing xs s with
  | nil =>
    obtain rfl : xs = [] := by simpa using hreply.symm
    refine ⟨s.collect, ?_, ⟨hrequest, rfl⟩, hscript, rfl, by simp⟩
    rw [List.length_nil, run_succ_of_next (step_of_no_request hrequest), State.hostTurn_of_nil hscript]
    rfl
  | cons r rs ih =>
    obtain _ | ⟨x, xs⟩ := xs
    · cases hreply
    obtain ⟨hx, hxs⟩ := List.cons.inj hreply
    obtain ⟨u, hrun₂, hurequest, huresponse, huconfig, huscript, hureceived⟩ := run_issue hrequest hscript hx
    rw [← huconfig] at hxs
    obtain ⟨t, hrun, hidle, hempty, hconfig, hreceived⟩ := ih xs u hurequest huscript hxs
    refine ⟨t, (hrun₂ _).trans hrun, hidle, hempty, hconfig.trans huconfig, ?_⟩
    simp [hreceived, huresponse, hureceived]

/-- Settles O47: the induction over the script, from a state with nothing pending. -/
theorem requestsAreAnsweredInOrder : Obligations.RequestsAreAnsweredInOrder := by
  intro s rs xs hidle hscript hreply
  obtain ⟨hrequest, hresponse⟩ := hidle
  have hrun := run_script_of_requests rs xs s hrequest hscript hreply
  simpa [hresponse] using hrun

end Sys2Proof.Machine

/-!
PROOF. The written requests (30_encoding.md R67), and the values for claims: the timestamp (40_frame_codec.md R81) and
the bit rates (41_bit_timing.md R89).
-/
namespace Sys2Proof.Machine

/-! ### Written requests -/

/-- The written request a request on the ports comes from: its instruction, with the operand of the port named. -/
def disassemble (r : Request) : Option Asm :=
  match decodeCmd r.cmd with
  | .enc => r.frameIn.map .enc
  | .dec => r.bufIn.map .dec
  | .cls => r.wordIn.map .cls
  | .timing => r.wordIn.map .timing
  | .tpay => r.timingIn.map .tpay
  | .errdec => r.frameIn.map .errdec
  | .reservedZero | .reservedOp _ | .reservedHigh _ _ => some (.ill r.cmd)

theorem decodeCmd_assemble (a : Asm) : decodeCmd (assemble a).cmd = asmInstr a := by
  cases a with
  | enc _ => exact decodeCmd_enc
  | dec _ => exact decodeCmd_dec
  | cls _ => exact decodeCmd_cls
  | timing _ => exact decodeCmd_timing
  | tpay _ => exact decodeCmd_tpay
  | errdec _ => exact decodeCmd_errdec
  | ill _ => rfl

theorem disassemble_assemble {a : Asm} (h : asmWellFormed a = true) : disassemble (assemble a) = some a := by
  unfold disassemble
  rw [decodeCmd_assemble]
  cases a with
  | enc _ | dec _ | cls _ | timing _ | tpay _ | errdec _ => rfl
  | ill cmd =>
    have hreserved : (decodeCmd cmd).isReserved = true := h
    rw [asmInstr]
    cases hi : decodeCmd cmd with
    | reservedZero | reservedOp _ | reservedHigh _ _ => rfl
    | enc | dec | cls | timing | tpay | errdec => rw [hi] at hreserved; cases hreserved

/-- A reserved row names no operand port (R57). -/
theorem operandPort_of_isReserved {i : Instr} (h : i.isReserved = true) : operandPort i = none := by
  cases i with
  | reservedZero | reservedOp _ | reservedHigh _ _ => rfl
  | enc | dec | cls | timing | tpay | errdec => cases h

theorem wellFormed_assemble {a : Asm} (h : asmWellFormed a = true) : (assemble a).wellFormed = true := by
  unfold Request.wellFormed
  rw [decodeCmd_assemble]
  cases a with
  | enc _ | dec _ | cls _ | timing _ | tpay _ | errdec _ => rfl
  | ill cmd =>
    rw [asmInstr, operandPort_of_isReserved h]
    rfl

/-- Settles O52: the ports of each form are those of its row, and the request can be read back. -/
theorem writtenRequestsAreWellFormed : Obligations.WrittenRequestsAreWellFormed := by
  refine ⟨fun a ha => ⟨wellFormed_assemble ha, decodeCmd_assemble a⟩, fun a b ha hb h => ?_⟩
  have hread := disassemble_assemble ha
  rw [h, disassemble_assemble hb] at hread
  exact (Option.some.inj hread).symm

/-! ### Timestamp and bit rates -/

/-- Settles O50: the microseconds are below 2^32. -/
theorem timestampIsAnExactRational : Obligations.TimestampIsAnExactRational := by
  intro f
  have hmax : (f.timestampUs.toNat : Rat) ≤ 4294967295 := by
    have hlt := f.timestampUs.isLt
    exact_mod_cast (by omega : f.timestampUs.toNat ≤ 4294967295)
  unfold CanFrame.timestampSeconds
  refine ⟨by ring, by positivity, ?_⟩
  gcongr

/-- Time quanta per bit, and those before the sample point, of the default rows (R89). -/
theorem defaultTimingTable_quanta :
    (∀ w ∈ Config.defaultTimingTable.take 8,
      tqPerBit w.timing = 16 ∧ 1 + w.timing.propSeg.toNat + w.timing.phaseSeg1.toNat = 14) ∧
    (∀ w ∈ Config.defaultTimingTable.drop 8,
      tqPerBit w.timing = 15 ∧ 1 + w.timing.propSeg.toNat + w.timing.phaseSeg1.toNat = 13) := by decide

/-- Clock ticks per bit of the default rows: two rows miss their key (90_conflicts.md C1). -/
theorem defaultTimingTable_ticks : ∀ w ∈ Config.defaultTimingTable,
    (w.bitrate = 83333 ∧ w.timing.brp.toNat * tqPerBit w.timing = 576) ∨
      (w.bitrate = 1000000 ∧ w.timing.brp.toNat * tqPerBit w.timing = 45) ∨
      (w.bitrate ≠ 83333 ∧ w.bitrate ≠ 1000000 ∧
        w.bitrate.toNat * (w.timing.brp.toNat * tqPerBit w.timing) = clockHz) := by decide

/-- Where the ticks of the key's bit time make up a second, the key is the bit rate. -/
theorem bitRate_eq_of_mul_eq {n : Nat} {t : BitTiming} (h : n * (t.brp.toNat * tqPerBit t) = clockHz) :
    bitRate t = n := by
  have hne : t.brp.toNat * tqPerBit t ≠ 0 := fun h0 => by simp [h0, clockHz] at h
  rw [bitRate, div_eq_iff (Nat.cast_ne_zero.2 hne), ← h]
  exact Nat.cast_mul n _

/-- Settles O51: the quanta and the ticks of each row, divided. -/
theorem defaultRowsHaveTheirBitRates : Obligations.DefaultRowsHaveTheirBitRates := by
  obtain ⟨hfirst, hlast⟩ := defaultTimingTable_quanta
  refine ⟨fun w hw => ?_, fun w hw => ?_, fun w hw => ?_⟩
  · obtain ⟨htq, hsample⟩ := hfirst w hw
    refine ⟨htq, ?_⟩
    rw [samplePoint, htq, hsample]
    norm_num
  · obtain ⟨htq, hsample⟩ := hlast w hw
    refine ⟨htq, ?_⟩
    rw [samplePoint, htq, hsample]
    norm_num
  · rcases defaultTimingTable_ticks w hw with ⟨hkey, hticks⟩ | ⟨hkey, hticks⟩ | ⟨hne, hne', hticks⟩
    · rw [if_pos hkey, bitRate, hticks, clockHz]
      norm_num
    · rw [if_neg (by rw [hkey]; decide), if_pos hkey, bitRate, hticks, clockHz]
      norm_num
    · rw [if_neg hne, if_neg hne', bitRate_eq_of_mul_eq hticks]

end Sys2Proof.Machine
